-- ==== Sys2Proof/Word.lean ====
section
/-! DEFINITION. The word types of the latch mapper engine: the 8-bit data byte, the 16-bit CPU address (spec R50)
and the 32-bit command word (spec R70). Every value is unsigned (spec R10). -/

namespace Sys2Proof

/-- `UInt8` of spec R10: the latch, a bus datum, a WRAM or ROM byte. -/
abbrev Byte := BitVec 8

/-- `UInt16` of spec R10: a CPU or PPU address (spec R50). -/
abbrev Addr := BitVec 16

/-- A command word, spec R70. -/
abbrev CmdWord := BitVec 32

/-- An image: the bytes of WRAM in offset order (spec R60), or whatever bytes a host hands over as one (spec R74). -/
abbrev Image := List Byte

/-- A memory: `(address, byte)` pairs in rising order of address; an address with no pair reads 0x00.
The canonical form is `Memory.wf` (Machine/Ops.lean). -/
abbrev Memory := List Host.Cell

end Sys2Proof
end

