-- ==== Sys2Proof/Config.lean ====
section
/-! DEFINITION. The configuration: the record INIT binds (spec R20), the variant parameters (spec R77, R78), and the
parameters the spec leaves OPEN to the platform (spec R9), which are constants without a body. -/

namespace Sys2Proof

/-- The mirroring modes, spec R37. -/
inductive Mirroring where
  | horizontal
  | vertical
  | singleA
  | singleB
  deriving DecidableEq, Repr

/-- `prgMode`, spec R78. -/
inductive PrgMode where
  | p16FixedLast
  | p32
  deriving DecidableEq, Repr

/-- The PRG and CHR bit groups of a latch, common to COMBINED and SUBMAPPER_POLARITY (spec R174, R175). -/
structure BankLayout where
  prgMode : PrgMode
  prgShift : Fin 8
  prgMask : Byte
  chrShift : Fin 8
  chrMask : Byte
  deriving DecidableEq, Repr

/-- The parameters of COMBINED, spec R174, at their legal values (spec R78). -/
structure CombinedParams where
  layout : BankLayout
  mirBit : Option (Fin 8)
  mirLo : Mirroring
  mirHi : Mirroring
  deriving DecidableEq, Repr

/-- The parameters of SUBMAPPER_POLARITY, spec R175: COMBINED's with `mirBit` required, and `invertSubmapper`. -/
structure PolarityParams where
  layout : BankLayout
  mirBit : Fin 8
  mirLo : Mirroring
  mirHi : Mirroring
  invertSubmapper : Nat
  deriving DecidableEq, Repr

/-- The four variants the block admits (spec R77, R176), each with its decode parameters. -/
inductive Variant where
  | prg16LowSwitch
  | chr8Switch
  | combined (p : CombinedParams)
  | submapperPolarity (p : PolarityParams)
  deriving DecidableEq, Repr

/-- The `variant` field as the INIT record carries it (spec R77): a 4-bit tag and raw parameter values, legal or not.
A tag that takes no parameters ignores them (assumption log 14). -/
structure VariantRecord where
  tag : BitVec 4
  prgMode : Nat := 0
  prgShift : Nat := 0
  prgMask : Byte := 0
  chrShift : Nat := 0
  chrMask : Byte := 0
  mirBit : Option Nat := none
  mirLo : Nat := 0
  mirHi : Nat := 0
  invertSubmapper : Nat := 1
  deriving DecidableEq, Repr

/-- The configuration record of spec R20, over the form its `variant` field has: raw as INIT receives it, decoded as
the engine holds it. `prgRom` lists the PRG ROM's nonzero bytes by offset. -/
structure CfgOf (V : Type) where
  variant : V
  initLatch : Byte
  winLow : Addr
  winHigh : Addr
  needsWRAM : Bool
  busConflict : Bool
  submapper : Nat
  isExtended : Bool
  declWram : Nat
  declBatteryWram : Nat
  battery : Bool
  prgBanks16 : Nat
  prgRom : Memory
  headerMirroring : Mirroring
  deriving DecidableEq, Repr

/-- The record INIT carries as its payload (spec R74). -/
abbrev CfgRecord := CfgOf VariantRecord

/-- The record the engine holds in `cfg` after INIT (spec R20, R21). -/
abbrev Cfg := CfgOf Variant

/-- The out-of-band payload beside a command word (spec R74): a configuration record for INIT, a WRAM image for
STATE_LOAD and BATTERY_LOAD. -/
structure Payload where
  cfg : Option CfgRecord := none
  image : Option Image := none
  deriving DecidableEq, Repr

/-- The checks of `wellFormed` (spec R100), in its order, and the record's absence (assumption log 6).
A fault `F_CONFIG_INVALID` names the one that failed (spec R201). -/
inductive ConfigCheck where
  | recordMissing
  | windowOrder
  | prgBanks
  | variantTag
  | variantParams
  deriving DecidableEq, Repr

/-- The two save-state regions, spec R31. -/
inductive PersistOrder where
  | latchFirst
  | wramFirst
  deriving DecidableEq, Repr, Inhabited

namespace Config

/-- OPEN (spec R9, D24): the save-state region name of the latch. -/
opaque latchTag : String

/-- OPEN (spec R9, D24): the save-state region name of WRAM. -/
opaque wramTag : String

/-- OPEN (spec R9, D24): the order of the save-state regions. -/
opaque persistOrder : PersistOrder

/-- OPEN (spec R9, D37): which mapper id uses which variant and parameters. -/
opaque variantRegistry : Nat → Option Variant

/-- OPEN (spec R9, D40): how a caller computes the `busConflict` argument from mapper id and submapper. -/
opaque busConflictOf : Nat → Nat → Bool

end Config

end Sys2Proof
end

