-- ==== Sys2Proof/Syntax.lean ====
section
/-! DEFINITION. The syntax: `Instr`, one constructor per row of spec/opcode_table.json, and `BankCall`, the calls a
Sync issues (spec R163 to R169). -/

namespace Sys2Proof

/-- A bank-mapping call with its window address `w` and bank index `b` (spec R163 to R169). -/
inductive BankCall where
  | setPrg8 (w : Addr) (b : Nat)
  | setPrg16 (w : Addr) (b : Nat)
  | setPrg32 (b : Nat)
  | setChr1 (w : Addr) (b : Nat)
  | setChr4 (w : Addr) (b : Nat)
  | setChr8 (b : Nat)
  | setMirror (m : Mirroring)
  deriving DecidableEq, Repr

/-- The rows of the opcode table, in its order: the nine commands with their payloads (spec R71, R74), the seven
reserved opcodes with the 28 bits below OP (spec R73), the six operations CPU_WRITE and CPU_READ are further decoded to
(spec R76), the four variants and the twelve reserved variant tags (spec R77), and the seven bank calls. -/
inductive Instr where
  | init (cfg : Option CfgRecord)
  | powerOn
  | write (a : Addr) (v : Byte)
  | read (a : Addr)
  | saveState
  | loadState (d : Byte) (img : Option Image)
  | close
  | batteryLoad (img : Option Image)
  | batterySave
  | reservedOp9 (rest : BitVec 28)
  | reservedOpA (rest : BitVec 28)
  | reservedOpB (rest : BitVec 28)
  | reservedOpC (rest : BitVec 28)
  | reservedOpD (rest : BitVec 28)
  | reservedOpE (rest : BitVec 28)
  | reservedOpF (rest : BitVec 28)
  | latchWrite (a : Addr) (v : Byte)
  | wramWrite (a : Addr) (v : Byte)
  | ignoredWrite (a : Addr) (v : Byte)
  | wramRead (a : Addr)
  | romRead (a : Addr)
  | unhandledRead (a : Addr)
  | prg16LowSwitch
  | chr8Switch
  | combined (p : CombinedParams)
  | submapperPolarity (p : PolarityParams)
  | reservedVariant4
  | reservedVariant5
  | reservedVariant6
  | reservedVariant7
  | reservedVariant8
  | reservedVariant9
  | reservedVariant10
  | reservedVariant11
  | reservedVariant12
  | reservedVariant13
  | reservedVariant14
  | reservedVariant15
  | setPrg8 (w : Addr) (b : Nat)
  | setPrg16 (w : Addr) (b : Nat)
  | setPrg32 (b : Nat)
  | setChr1 (w : Addr) (b : Nat)
  | setChr4 (w : Addr) (b : Nat)
  | setChr8 (b : Nat)
  | setMirror (m : Mirroring)
  deriving DecidableEq, Repr

end Sys2Proof
end

