-- ==== Sys2Proof/WellFormed.lean ====
section
/-! DEFINITION. Well-formedness of bank calls and instructions: the window addresses the spec admits (spec R163, R164,
R166, R167). Every other operand is legal by its type. -/

namespace Sys2Proof

/-- `w` is one of the four 8 KiB windows, spec R163. -/
def prg8Window (w : Addr) : Bool := w == 0x8000#16 || w == 0xA000#16 || w == 0xC000#16 || w == 0xE000#16

/-- `w` is one of the two 16 KiB windows, spec R164. -/
def prg16Window (w : Addr) : Bool := w == 0x8000#16 || w == 0xC000#16

/-- `w` is one of the eight 1 KiB windows, spec R166. -/
def chr1Window (w : Addr) : Bool := w.toNat % 0x400 == 0 && w.toNat ≤ 0x1C00

/-- `w` is one of the two 4 KiB windows, spec R167. -/
def chr4Window (w : Addr) : Bool := w == 0x0000#16 || w == 0x1000#16

/-- The window of a bank call is one its rule names. -/
def BankCall.wellFormed : BankCall → Bool
  | .setPrg8 w _ => prg8Window w
  | .setPrg16 w _ => prg16Window w
  | .setPrg32 _ => true
  | .setChr1 w _ => chr1Window w
  | .setChr4 w _ => chr4Window w
  | .setChr8 _ => true
  | .setMirror _ => true

/-- The check on an instruction's operands. -/
def Instr.wellFormed : Instr → Bool
  | .setPrg8 w _ => prg8Window w
  | .setPrg16 w _ => prg16Window w
  | .setChr1 w _ => chr1Window w
  | .setChr4 w _ => chr4Window w
  | .setPrg32 _ | .setChr8 _ | .setMirror _ => true
  | .init _ | .powerOn | .write _ _ | .read _ | .saveState | .loadState _ _ | .close | .batteryLoad _ | .batterySave => true
  | .reservedOp9 _ | .reservedOpA _ | .reservedOpB _ | .reservedOpC _ | .reservedOpD _ | .reservedOpE _
  | .reservedOpF _ => true
  | .latchWrite _ _ | .wramWrite _ _ | .ignoredWrite _ _ | .wramRead _ | .romRead _ | .unhandledRead _ => true
  | .prg16LowSwitch | .chr8Switch | .combined _ | .submapperPolarity _ => true
  | .reservedVariant4 | .reservedVariant5 | .reservedVariant6 | .reservedVariant7 | .reservedVariant8
  | .reservedVariant9 | .reservedVariant10 | .reservedVariant11 | .reservedVariant12 | .reservedVariant13
  | .reservedVariant14 | .reservedVariant15 => true

end Sys2Proof
end

