-- ==== Sys2Proof/Decode.lean ====
section
/-! DEFINITION. Decoding and encoding: command words (spec R70 to R73), payloads (spec R74), the variant tag and its
parameters (spec R77, R78), and the INIT record's validation (spec R100). -/

namespace Sys2Proof

/-- `OP`, bits 31:28 (spec R70). -/
def opField (w : CmdWord) : BitVec 4 := w.extractLsb' 28 4

/-- `RSV`, bits 27:24 (spec R70). -/
def rsvField (w : CmdWord) : BitVec 4 := w.extractLsb' 24 4

/-- `ADDR`, bits 23:8 (spec R70). -/
def addrField (w : CmdWord) : Addr := w.extractLsb' 8 16

/-- `DATA`, bits 7:0 (spec R70). -/
def dataField (w : CmdWord) : Byte := w.extractLsb' 0 8

/-- The 28 bits below `OP`, of which a reserved opcode names none (spec R73). -/
def restField (w : CmdWord) : BitVec 28 := w.extractLsb' 0 28

/-- Why a word decodes to no instruction: `RSV`, or a field its operation does not use, is not 0 (spec R72). -/
inductive DecodeReject where
  | reservedField
  deriving DecidableEq, Repr

/-- Accept `i` when every field its operation leaves unused is 0 (spec R72). -/
def fieldsOk (ok : Bool) (i : Instr) : Except DecodeReject Instr := if ok then .ok i else .error .reservedField

/-- The command a word and its payload stand for, spec R71 to R74. A reserved `OP` is recognised before any field
check (spec R204). -/
def decode (w : CmdWord) (p : Payload) : Except DecodeReject Instr :=
  match (opField w).toNat with
  | 0 => fieldsOk (rsvField w == 0#4 && addrField w == 0#16 && dataField w == 0#8) (.init p.cfg)
  | 1 => fieldsOk (rsvField w == 0#4 && addrField w == 0#16 && dataField w == 0#8) .powerOn
  | 2 => fieldsOk (rsvField w == 0#4) (.write (addrField w) (dataField w))
  | 3 => fieldsOk (rsvField w == 0#4 && dataField w == 0#8) (.read (addrField w))
  | 4 => fieldsOk (rsvField w == 0#4 && addrField w == 0#16 && dataField w == 0#8) .saveState
  | 5 => fieldsOk (rsvField w == 0#4 && addrField w == 0#16) (.loadState (dataField w) p.image)
  | 6 => fieldsOk (rsvField w == 0#4 && addrField w == 0#16 && dataField w == 0#8) .close
  | 7 => fieldsOk (rsvField w == 0#4 && addrField w == 0#16 && dataField w == 0#8) (.batteryLoad p.image)
  | 8 => fieldsOk (rsvField w == 0#4 && addrField w == 0#16 && dataField w == 0#8) .batterySave
  | 9 => .ok (.reservedOp9 (restField w))
  | 10 => .ok (.reservedOpA (restField w))
  | 11 => .ok (.reservedOpB (restField w))
  | 12 => .ok (.reservedOpC (restField w))
  | 13 => .ok (.reservedOpD (restField w))
  | 14 => .ok (.reservedOpE (restField w))
  | _ => .ok (.reservedOpF (restField w))

/-! ### The INIT record's variant -/

/-- A mirroring code, spec R37. -/
def Mirroring.ofCode : Nat → Option Mirroring
  | 0 => some .horizontal
  | 1 => some .vertical
  | 2 => some .singleA
  | 3 => some .singleB
  | _ => none

/-- The code of a mirroring mode, spec R37. -/
def Mirroring.code : Mirroring → Nat
  | .horizontal => 0
  | .vertical => 1
  | .singleA => 2
  | .singleB => 3

/-- A `prgMode` value, spec R78. -/
def PrgMode.ofCode : Nat → Option PrgMode
  | 0 => some .p16FixedLast
  | 1 => some .p32
  | _ => none

/-- The value of a `prgMode`, spec R78. -/
def PrgMode.code : PrgMode → Nat
  | .p16FixedLast => 0
  | .p32 => 1

/-- A shift or a bit number, an integer 0..7 (spec R78). -/
def bitIndex (n : Nat) : Option (Fin 8) := if h : n < 8 then some ⟨n, h⟩ else none

/-- The bit groups of a record, if their values are legal (spec R78). -/
def decodeLayout (r : VariantRecord) : Option BankLayout := do
  let m ← PrgMode.ofCode r.prgMode
  let ps ← bitIndex r.prgShift
  let cs ← bitIndex r.chrShift
  some ⟨m, ps, r.prgMask, cs, r.chrMask⟩

/-- `mirBit`: `none` or an integer 0..7 (spec R78). -/
def decodeMirBit : Option Nat → Option (Option (Fin 8))
  | none => some none
  | some n => (bitIndex n).map some

/-- COMBINED's parameters, if legal (spec R174, R78). -/
def decodeCombined (r : VariantRecord) : Option CombinedParams := do
  let l ← decodeLayout r
  let b ← decodeMirBit r.mirBit
  let lo ← Mirroring.ofCode r.mirLo
  let hi ← Mirroring.ofCode r.mirHi
  some ⟨l, b, lo, hi⟩

/-- SUBMAPPER_POLARITY's parameters, if legal: `mirBit` is required (spec R175, R77). -/
def decodePolarity (r : VariantRecord) : Option PolarityParams := do
  let l ← decodeLayout r
  let n ← r.mirBit
  let b ← bitIndex n
  let lo ← Mirroring.ofCode r.mirLo
  let hi ← Mirroring.ofCode r.mirHi
  some ⟨l, b, lo, hi, r.invertSubmapper⟩

/-- The variant a record names: tags 0 to 3 with legal parameters, and nothing else (spec R77, R78, R176). -/
def decodeVariant (r : VariantRecord) : Except ConfigCheck Variant :=
  match r.tag.toNat with
  | 0 => .ok .prg16LowSwitch
  | 1 => .ok .chr8Switch
  | 2 => match decodeCombined r with
    | some p => .ok (.combined p)
    | none => .error .variantParams
  | 3 => match decodePolarity r with
    | some p => .ok (.submapperPolarity p)
    | none => .error .variantParams
  | _ => .error .variantTag

/-- A variant as a row of the opcode table. -/
def Variant.toInstr : Variant → Instr
  | .prg16LowSwitch => .prg16LowSwitch
  | .chr8Switch => .chr8Switch
  | .combined p => .combined p
  | .submapperPolarity p => .submapperPolarity p

/-- The row of the opcode table a variant record selects, the reserved tags among them (spec R77). -/
def decodeVariantRow (r : VariantRecord) : Except ConfigCheck Instr :=
  match r.tag.toNat with
  | 4 => .ok .reservedVariant4
  | 5 => .ok .reservedVariant5
  | 6 => .ok .reservedVariant6
  | 7 => .ok .reservedVariant7
  | 8 => .ok .reservedVariant8
  | 9 => .ok .reservedVariant9
  | 10 => .ok .reservedVariant10
  | 11 => .ok .reservedVariant11
  | 12 => .ok .reservedVariant12
  | 13 => .ok .reservedVariant13
  | 14 => .ok .reservedVariant14
  | 15 => .ok .reservedVariant15
  | _ => (decodeVariant r).map Variant.toInstr

/-- `wellFormed` of spec R100, check by check in its order: the configuration to bind, or the check that failed. -/
def bindRecord (r : CfgRecord) : Except ConfigCheck Cfg :=
  if r.winLow ≤ r.winHigh then
    if 1 ≤ r.prgBanks16 then
      match decodeVariant r.variant with
      | .ok v => .ok { r with variant := v }
      | .error c => .error c
    else .error .prgBanks
  else .error .windowOrder

/-! ### Encoding -/

/-- `{OP(4), 0(4), ADDR(16), DATA(8)}`, spec R79. -/
def assembleWord (op : BitVec 4) (a : Addr) (d : Byte) : CmdWord :=
  (op ++ (0#4 ++ (a ++ d))).cast (by decide)

/-- The word of a reserved opcode, its lower bits as they stand (spec R73). -/
def reservedWord (op : BitVec 4) (rest : BitVec 28) : CmdWord :=
  (op ++ rest).cast (by decide)

/-- The command word an instruction stands in (spec R71, R72). A sub-operation stands in its command's word (spec R76),
a variant in INIT's, which carries its tag (spec R77), and a bank call, which only a Sync issues, in none: its entry is
INIT's word and nothing reads it. -/
def Instr.word : Instr → CmdWord
  | .init _ => assembleWord 0x0 0 0
  | .powerOn => assembleWord 0x1 0 0
  | .write a v => assembleWord 0x2 a v
  | .read a => assembleWord 0x3 a 0
  | .saveState => assembleWord 0x4 0 0
  | .loadState d _ => assembleWord 0x5 0 d
  | .close => assembleWord 0x6 0 0
  | .batteryLoad _ => assembleWord 0x7 0 0
  | .batterySave => assembleWord 0x8 0 0
  | .reservedOp9 x => reservedWord 0x9 x
  | .reservedOpA x => reservedWord 0xA x
  | .reservedOpB x => reservedWord 0xB x
  | .reservedOpC x => reservedWord 0xC x
  | .reservedOpD x => reservedWord 0xD x
  | .reservedOpE x => reservedWord 0xE x
  | .reservedOpF x => reservedWord 0xF x
  | .latchWrite a v | .wramWrite a v | .ignoredWrite a v => assembleWord 0x2 a v
  | .wramRead a | .romRead a | .unhandledRead a => assembleWord 0x3 a 0
  | .prg16LowSwitch | .chr8Switch | .combined _ | .submapperPolarity _ => assembleWord 0x0 0 0
  | .reservedVariant4 | .reservedVariant5 | .reservedVariant6 | .reservedVariant7 | .reservedVariant8
  | .reservedVariant9 | .reservedVariant10 | .reservedVariant11 | .reservedVariant12 | .reservedVariant13
  | .reservedVariant14 | .reservedVariant15 => assembleWord 0x0 0 0
  | .setPrg8 _ _ | .setPrg16 _ _ | .setPrg32 _ | .setChr1 _ _ | .setChr4 _ _ | .setChr8 _ | .setMirror _ => assembleWord 0x0 0 0

/-- The payload beside a command's word (spec R74). -/
def Instr.payload : Instr → Payload
  | .init r => { cfg := r }
  | .loadState _ img => { image := img }
  | .batteryLoad img => { image := img }
  | _ => {}

/-- A variant as the INIT record carries it (spec R77, R78). -/
def encodeVariant : Variant → VariantRecord
  | .prg16LowSwitch => { tag := 0 }
  | .chr8Switch => { tag := 1 }
  | .combined p =>
    { tag := 2, prgMode := p.layout.prgMode.code, prgShift := p.layout.prgShift.val, prgMask := p.layout.prgMask,
      chrShift := p.layout.chrShift.val, chrMask := p.layout.chrMask, mirBit := p.mirBit.map Fin.val,
      mirLo := p.mirLo.code, mirHi := p.mirHi.code }
  | .submapperPolarity p =>
    { tag := 3, prgMode := p.layout.prgMode.code, prgShift := p.layout.prgShift.val, prgMask := p.layout.prgMask,
      chrShift := p.layout.chrShift.val, chrMask := p.layout.chrMask, mirBit := some p.mirBit.val,
      mirLo := p.mirLo.code, mirHi := p.mirHi.code, invertSubmapper := p.invertSubmapper }

/-- What encodes an instruction: a command word with its payload, the variant field of the INIT record, or nothing (a
bank call is "not a command word", opcode table). -/
inductive Encoding where
  | command (w : CmdWord) (p : Payload)
  | variant (r : VariantRecord)
  | internal
  deriving DecidableEq, Repr

/-- The encoding of an instruction. -/
def encode : Instr → Encoding
  | .prg16LowSwitch => .variant (encodeVariant .prg16LowSwitch)
  | .chr8Switch => .variant (encodeVariant .chr8Switch)
  | .combined p => .variant (encodeVariant (.combined p))
  | .submapperPolarity p => .variant (encodeVariant (.submapperPolarity p))
  | .reservedVariant4 => .variant { tag := 4 }
  | .reservedVariant5 => .variant { tag := 5 }
  | .reservedVariant6 => .variant { tag := 6 }
  | .reservedVariant7 => .variant { tag := 7 }
  | .reservedVariant8 => .variant { tag := 8 }
  | .reservedVariant9 => .variant { tag := 9 }
  | .reservedVariant10 => .variant { tag := 10 }
  | .reservedVariant11 => .variant { tag := 11 }
  | .reservedVariant12 => .variant { tag := 12 }
  | .reservedVariant13 => .variant { tag := 13 }
  | .reservedVariant14 => .variant { tag := 14 }
  | .reservedVariant15 => .variant { tag := 15 }
  | .setPrg8 _ _ | .setPrg16 _ _ | .setPrg32 _ | .setChr1 _ _ | .setChr4 _ _ | .setChr8 _ | .setMirror _ => .internal
  | .init r => .command (Instr.init r).word (Instr.init r).payload
  | .powerOn => .command Instr.powerOn.word {}
  | .write a v => .command (Instr.write a v).word {}
  | .read a => .command (Instr.read a).word {}
  | .saveState => .command Instr.saveState.word {}
  | .loadState d img => .command (Instr.loadState d img).word (Instr.loadState d img).payload
  | .close => .command Instr.close.word {}
  | .batteryLoad img => .command (Instr.batteryLoad img).word (Instr.batteryLoad img).payload
  | .batterySave => .command Instr.batterySave.word {}
  | .reservedOp9 x => .command (Instr.reservedOp9 x).word {}
  | .reservedOpA x => .command (Instr.reservedOpA x).word {}
  | .reservedOpB x => .command (Instr.reservedOpB x).word {}
  | .reservedOpC x => .command (Instr.reservedOpC x).word {}
  | .reservedOpD x => .command (Instr.reservedOpD x).word {}
  | .reservedOpE x => .command (Instr.reservedOpE x).word {}
  | .reservedOpF x => .command (Instr.reservedOpF x).word {}
  | .latchWrite a v => .command (Instr.latchWrite a v).word {}
  | .wramWrite a v => .command (Instr.wramWrite a v).word {}
  | .ignoredWrite a v => .command (Instr.ignoredWrite a v).word {}
  | .wramRead a => .command (Instr.wramRead a).word {}
  | .romRead a => .command (Instr.romRead a).word {}
  | .unhandledRead a => .command (Instr.unhandledRead a).word {}

/-- The instruction an encoding gives back: itself, or the command that a sub-operation's word decodes to before its
address is looked at (spec R76). -/
def Instr.command : Instr → Instr
  | .latchWrite a v | .wramWrite a v | .ignoredWrite a v => .write a v
  | .wramRead a | .romRead a | .unhandledRead a => .read a
  | i => i

/-- The instruction an encoding stands for. -/
def decodeEncoding : Encoding → Option Instr
  | .command w p => (decode w p).toOption
  | .variant r => (decodeVariantRow r).toOption
  | .internal => none

/-! ### The opcode table's words -/

/-- A variant tag with its parameters 0, as far as the tag allows: SUBMAPPER_POLARITY requires a `mirBit`, which is then
bit 0, and `invertSubmapper` has its default 1 (spec R78). -/
def tableVariant (t : BitVec 4) : VariantRecord := { tag := t, mirBit := if t = 3 then some 0 else none }

/-- A legal INIT record with every field 0 but the ROM size, which is the least legal one (assumption log 12). -/
def tableRecord (v : VariantRecord) : CfgRecord :=
  { variant := v, initLatch := 0, winLow := 0, winHigh := 0, needsWRAM := false, busConflict := false, submapper := 0,
    isExtended := false, declWram := 0, declBatteryWram := 0, battery := false, prgBanks16 := 1, prgRom := [],
    headerMirroring := .horizontal }

/-- The payload taken with a bare word of the opcode table: INIT gets `tableRecord` (assumption log 12). -/
def tablePayload : Payload := { cfg := some (tableRecord (tableVariant 0)) }

/-- The instruction this decoder reads from an opcode-table word of `nbits` bits: 32 bits are a command word (spec R70),
8 bits hold a variant's 4-bit tag with its parameters 0 (spec R77). -/
def decodeTableWord (nbits w : Nat) : Option Instr :=
  if nbits = 0 then none
  else if nbits ≤ 8 then
    if w < 16 then (decodeVariantRow (tableVariant (BitVec.ofNat 4 w))).toOption else none
  else if w < 2 ^ 32 then (decode (BitVec.ofNat 32 w) tablePayload).toOption
  else none

end Sys2Proof
end

