-- ==== Sys2Proof/Machine/State.lean ====
section
/-! DEFINITION. The engine's state (spec R24), the faults it records (spec R200, R201), the responses it gives
(spec R75), the reasons a step has no successor, and the state before any command. -/

namespace Sys2Proof.Machine

/-- The lifecycle state, spec R25. -/
inductive Life where
  | absent
  | unpowered
  | powered
  | closed
  deriving DecidableEq, Repr

/-- The four PRG slots of 8 KiB, spec R28: each a bank number, or `none` for ⊥. -/
structure PrgSlots where
  s0 : Option Nat
  s1 : Option Nat
  s2 : Option Nat
  s3 : Option Nat
  deriving DecidableEq, Repr

/-- The eight CHR slots of 1 KiB, spec R28: each a bank number, or `none` for ⊥. -/
structure ChrSlots where
  s0 : Option Nat
  s1 : Option Nat
  s2 : Option Nat
  s3 : Option Nat
  s4 : Option Nat
  s5 : Option Nat
  s6 : Option Nat
  s7 : Option Nat
  deriving DecidableEq, Repr

/-- The bank map, spec R28. -/
structure BankMap where
  prg : PrgSlots
  chr : ChrSlots
  mirror : Mirroring
  deriving DecidableEq, Repr

/-- The faults the block raises, spec R200. -/
inductive FaultCode where
  | illegalOp
  | reservedField
  | noInstance
  | alreadyInit
  | configInvalid
  | notPowered
  | alreadyPowered
  | closed
  | conflictUnmapped
  | snapshotShape
  | noBattery
  deriving DecidableEq, Repr

/-- The operand a fault names, spec R201: an address, a payload's length (`none` where no image was given), or the
failing check of `wellFormed`. -/
inductive FaultOperand where
  | nothing
  | addr (a : Addr)
  | payloadLength (n : Option Nat)
  | check (c : ConfigCheck)
  deriving DecidableEq, Repr

/-- `(code, info)` of spec R201: `info` holds the command word and the operand. -/
structure FaultRecord where
  code : FaultCode
  word : CmdWord
  operand : FaultOperand
  deriving DecidableEq, Repr

/-- The response of an operation, spec R75. -/
inductive Response where
  | unit
  | byte (b : Option Byte)
  | write (handled : Bool) (calls : List BankCall)
  | calls (calls : List BankCall)
  | powerOn (calls : List BankCall) (wramExposed : Bool)
  | snapshot (latch : Byte) (wram : Option Image)
  | image (img : Image)
  deriving DecidableEq, Repr

/-- A command as the host delivers it: the word and its out-of-band payload (spec R12, R74). -/
structure Command where
  word : CmdWord
  payload : Payload
  deriving DecidableEq, Repr

/-- The engine state of spec R24, and two fields of the model's own at its host side: `input`, the commands the host has
delivered and the engine has not run yet, oldest first (spec R34, R65), and `response`, what the last command answered
(spec R75; `none` before any command and after a fault); assumption log 4. -/
structure State where
  life : Life
  cfg : Option Cfg
  latch : Option Byte
  wram : Option Memory
  bank : BankMap
  fault : Option FaultRecord
  input : List Command
  response : Option Response
  deriving DecidableEq, Repr

/-- Why the machine has no step. -/
inductive Fault where
  /-- Raised by `step` when a fault is recorded: spec R202, "Once `s.fault != none`, no command has a step". Safe. -/
  | sticky (r : FaultRecord)
  /-- Raised by `step` when the host has delivered no command: spec R12 gives a step to a command only. Safe. -/
  | noCommand
  /-- Raised by an access to WRAM in a state whose configuration has WRAM and which holds no buffer. Spec R30 rules such
  a state out and no run reaches one. Safe. -/
  | wramAbsent
  deriving DecidableEq, Repr

/-- Why an instruction has no meaning where it stands. -/
inductive Refusal where
  /-- Raised by `exec` for an instruction whose meaning is not written. Safe. -/
  | notModelled (mnemonic : String)
  /-- Raised by a sub-operation of CPU_WRITE or CPU_READ at an address that spec R55 and R56 class under another one:
  its rule gives it no effect there, and no word decodes to it. Safe. -/
  | addressOfAnotherOperation
  /-- Raised by a bank call at a window its rule does not name (spec R163, R164, R166, R167). Safe. -/
  | windowNotNamed
  deriving DecidableEq, Repr

/-- What a step or a meaning answers. -/
abbrev Out := Host.Outcome State Fault Refusal

/-- Four PRG slots holding ⊥. -/
def PrgSlots.empty : PrgSlots := ⟨none, none, none, none⟩

/-- Eight CHR slots holding ⊥. -/
def ChrSlots.empty : ChrSlots := ⟨none, none, none, none, none, none, none, none⟩

/-- The bank map INIT leaves (spec R38, D19): every slot ⊥, and the header's mirroring. -/
def BankMap.initial (m : Mirroring) : BankMap := ⟨PrgSlots.empty, ChrSlots.empty, m⟩

/-- The machine before any command: `Absent`, nothing bound, no fault (spec R25, R24). The mirroring, which INIT sets, is
HORIZONTAL (DESIGN CHOICE, assumption log 1). -/
def State.reset : State where
  life := .absent
  cfg := none
  latch := none
  wram := none
  bank := BankMap.initial .horizontal
  fault := none
  input := []
  response := none

end Sys2Proof.Machine
end

