-- ==== Sys2Proof/Machine/Flags.lean ====
section
/-! DEFINITION. The block has no status flag (spec R33). What stands here is what it has in their place: the conditions
derived from the configuration flags (spec R22, R23), the fault codes (spec R200) and the lifecycle check (spec R203). -/

namespace Sys2Proof

/-- `hasWRAM`, spec R22, of a configuration. -/
def CfgOf.hasWram {V : Type} (c : CfgOf V) : Bool :=
  c.needsWRAM || (c.isExtended && decide (0 < c.declWram + c.declBatteryWram))

/-- `batterySave`, spec R23, of a configuration. -/
def CfgOf.batterySave {V : Type} (c : CfgOf V) : Bool := c.hasWram && c.battery

end Sys2Proof

namespace Sys2Proof.Machine

/-- The number of a fault, spec R200. -/
def FaultCode.number : FaultCode → Nat
  | .illegalOp => 1
  | .reservedField => 2
  | .noInstance => 3
  | .alreadyInit => 4
  | .configInvalid => 5
  | .notPowered => 6
  | .alreadyPowered => 7
  | .closed => 8
  | .conflictUnmapped => 9
  | .snapshotShape => 10
  | .noBattery => 11

/-! ### The lifecycle check, spec R203: a command's row of the table, `none` for ok -/

/-- INIT's row of spec R203. -/
def lifeInit : Life → Option FaultCode
  | .absent => none
  | .unpowered => some .alreadyInit
  | .powered => some .alreadyInit
  | .closed => some .closed

/-- POWER_ON's row of spec R203. -/
def lifePowerOn : Life → Option FaultCode
  | .absent => some .noInstance
  | .unpowered => none
  | .powered => some .alreadyPowered
  | .closed => some .closed

/-- The rows of CPU_WRITE, CPU_READ, STATE_SAVE and STATE_LOAD in spec R203, which are one row. -/
def lifeRunning : Life → Option FaultCode
  | .absent => some .noInstance
  | .unpowered => some .notPowered
  | .powered => none
  | .closed => some .closed

/-- CLOSE's row of spec R203. -/
def lifeClose : Life → Option FaultCode
  | .absent => some .noInstance
  | .unpowered => none
  | .powered => none
  | .closed => none

/-- BATTERY_LOAD's row of spec R203. -/
def lifeBatteryLoad : Life → Option FaultCode
  | .absent => some .noInstance
  | .unpowered => none
  | .powered => some .alreadyPowered
  | .closed => some .closed

/-- BATTERY_SAVE's row of spec R203. -/
def lifeBatterySave : Life → Option FaultCode
  | .absent => some .noInstance
  | .unpowered => none
  | .powered => none
  | .closed => some .closed

end Sys2Proof.Machine
end

