-- ==== Sys2Proof/Machine/Operands.lean ====
section
/-! DEFINITION. Operands: the CPU address windows and the classification of accesses (spec R51 to R56), the PRG
translation (spec R57), the bit groups of a latch (spec R171), and the calls each variant decodes a latch to
(spec R172 to R175). -/

namespace Sys2Proof.Machine

/-! ### Windows -/

/-- `WRAM_WIN = [0x6000, 0x7FFF]`, spec R51. -/
def inWramWin (a : Addr) : Bool := decide (0x6000#16 ≤ a) && decide (a ≤ 0x7FFF#16)

/-- `ROM_WIN = [0x8000, 0xFFFF]`, spec R52. -/
def inRomWin (a : Addr) : Bool := decide (0x8000#16 ≤ a)

/-- `LATCH_WIN = [cfg.winLow, cfg.winHigh]`, spec R53. -/
def inLatchWin (c : Cfg) (a : Addr) : Bool := decide (c.winLow ≤ a) && decide (a ≤ c.winHigh)

/-- The size of WRAM in bytes, spec R7, R30. -/
def wramSize : Nat := 8192

/-- The WRAM offset `a - 0x6000`, which is `a[12:0]` (spec R51). -/
def wramOffset (a : Addr) : Nat := (a.extractLsb' 0 13).toNat

/-! ### Classification -/

/-- The sub-operations of CPU_WRITE, spec R55. -/
inductive WriteClass where
  | latch
  | wram
  | ignored
  deriving DecidableEq, Repr

/-- The sub-operations of CPU_READ, spec R56. -/
inductive ReadClass where
  | wram
  | rom
  | unhandled
  deriving DecidableEq, Repr

/-- The class of a CPU write, spec R55: the first match wins. -/
def classifyWrite (c : Cfg) (a : Addr) : WriteClass :=
  if inLatchWin c a then .latch
  else if c.hasWram && inWramWin a then .wram
  else .ignored

/-- The class of a CPU read, spec R56: the first match wins. -/
def classifyRead (c : Cfg) (a : Addr) : ReadClass :=
  if c.hasWram && inWramWin a then .wram
  else if inRomWin a then .rom
  else .unhandled

/-! ### Memory reads and PRG translation -/

/-- The byte at an address; an unlisted address reads 0x00 (spec R102, assumption log 3). -/
def readByte : Memory → Nat → Byte
  | [], _ => 0#8
  | (k, b) :: m, a => if k = a then b else readByte m a

/-- `(w - 0x8000) >> 13`, the PRG slot of a CPU address in `ROM_WIN` (spec R57, R163). -/
def prgSlot (a : Addr) : Nat := ((a - 0x8000#16) >>> 13).toNat

/-- `w >> 10`, the CHR slot of a PPU pattern address (spec R28, R166). -/
def chrSlot (w : Addr) : Nat := (w >>> 10).toNat

/-- PRG slot `i`, spec R28. -/
def prgGet (p : PrgSlots) : Nat → Option Nat
  | 0 => p.s0
  | 1 => p.s1
  | 2 => p.s2
  | 3 => p.s3
  | _ => none

/-- CHR slot `j`, spec R28. -/
def chrGet (p : ChrSlots) : Nat → Option Nat
  | 0 => p.s0
  | 1 => p.s1
  | 2 => p.s2
  | 3 => p.s3
  | 4 => p.s4
  | 5 => p.s5
  | 6 => p.s6
  | 7 => p.s7
  | _ => none

/-- The ROM offset of `a[12:0]` in the 8 KiB bank number `b`, reduced modulo the ROM's bank count (spec R57, assumption log 15). -/
def physical (c : Cfg) (b : Nat) (a : Addr) : Nat := b % (2 * c.prgBanks16) * 8192 + (a.extractLsb' 0 13).toNat

/-- `romByte(a)` of spec R57 under a bank map; `none` where the slot holds ⊥. -/
def romByte (c : Cfg) (bank : BankMap) (a : Addr) : Option Byte :=
  match prgGet bank.prg (prgSlot a) with
  | some b => some (readByte c.prgRom (physical c b a))
  | none => none

/-! ### Decoding a latch -/

/-- `LAST16(n)`, spec R178. -/
def last16 (n : Nat) : Nat := n - 1

/-- `(latch >> shift) & mask`, spec R171. -/
def bitGroup (latch : Byte) (shift : Fin 8) (mask : Byte) : Nat := ((latch >>> shift.val) &&& mask).toNat

/-- `SET_MIRROR(if bit = 0 then lo else hi)`, spec R174, R175. -/
def mirrorCall (bit : Bool) (lo hi : Mirroring) : BankCall := .setMirror (if bit then hi else lo)

/-- The PRG calls and the CHR call of COMBINED, spec R174. -/
def layoutCalls (l : BankLayout) (latch : Byte) (n : Nat) : List BankCall :=
  (match l.prgMode with
    | .p16FixedLast => [.setPrg16 0x8000#16 (bitGroup latch l.prgShift l.prgMask), .setPrg16 0xC000#16 (last16 n)]
    | .p32 => [.setPrg32 (bitGroup latch l.prgShift l.prgMask)])
  ++ [.setChr8 (bitGroup latch l.chrShift l.chrMask)]

/-- PRG16_LOW_SWITCH's decode, spec R172. -/
def decodePrg16LowSwitch (latch : Byte) (n : Nat) : List BankCall :=
  [.setPrg16 0x8000#16 (latch &&& 0x0F#8).toNat, .setPrg16 0xC000#16 (last16 n), .setChr8 0]

/-- CHR8_SWITCH's decode, spec R173. -/
def decodeChr8Switch (latch : Byte) : List BankCall := [.setPrg32 0, .setChr8 latch.toNat]

/-- COMBINED's decode, spec R174. -/
def decodeCombinedCalls (p : CombinedParams) (latch : Byte) (n : Nat) : List BankCall :=
  layoutCalls p.layout latch n ++
    (match p.mirBit with
      | none => []
      | some k => [mirrorCall (latch.getLsbD k.val) p.mirLo p.mirHi])

/-- SUBMAPPER_POLARITY's decode, spec R175. -/
def decodePolarityCalls (p : PolarityParams) (latch : Byte) (sub n : Nat) : List BankCall :=
  decodeCombinedCalls ⟨p.layout, none, p.mirLo, p.mirHi⟩ latch n ++
    [mirrorCall (xor (latch.getLsbD p.mirBit.val) (decide (sub = p.invertSubmapper))) p.mirLo p.mirHi]

/-- `decode(variant, latch, submapper, prgBanks16)` of spec R161. -/
def decodeCalls (v : Variant) (latch : Byte) (sub n : Nat) : List BankCall :=
  match v with
  | .prg16LowSwitch => decodePrg16LowSwitch latch n
  | .chr8Switch => decodeChr8Switch latch
  | .combined p => decodeCombinedCalls p latch n
  | .submapperPolarity p => decodePolarityCalls p latch sub n

/-- The calls a configuration's Sync issues for a latch value, spec R161. -/
def syncCalls (c : Cfg) (latch : Byte) : List BankCall := decodeCalls c.variant latch c.submapper c.prgBanks16

/-! ### The platform's open parameters -/

/-- The INIT record a cartridge loader makes for a mapper id: the variant its registry names and the `busConflict` its
rule computes, over the metadata of `base` (spec R9). The block takes the result as it comes. -/
def loaderCfg (mapperId : Nat) (base : CfgRecord) : Option CfgRecord :=
  (Config.variantRegistry mapperId).map fun v =>
    { base with variant := encodeVariant v, busConflict := Config.busConflictOf mapperId base.submapper }

end Sys2Proof.Machine
end

