-- ==== Sys2Proof/Machine/Ops.lean ====
section
/-! DEFINITION. The shared operations: memory (spec R134, R102), raising a fault (spec R201, R202), answering
(spec R75), the bank calls and Sync (spec R161 to R169), and the bus accesses after classification (spec R131 to R139). -/

namespace Sys2Proof.Machine

/-! ### Memory -/

/-- The canonical form: addresses strictly rising, and no pair that holds 0x00, which an unlisted address reads. -/
abbrev Memory.wf (m : Memory) : Prop := m.Pairwise (fun x y => x.1 < y.1) ∧ ∀ c ∈ m, c.2 ≠ 0#8

/-- Every listed address is below `n`. -/
abbrev Memory.below (n : Nat) (m : Memory) : Prop := ∀ c ∈ m, c.1 < n

/-- `m` with byte `v` at address `a`, in canonical form. -/
def writeByte : Memory → Nat → Byte → Memory
  | [], a, v => if v = 0#8 then [] else [(a, v)]
  | (k, b) :: m, a, v =>
    if a < k then (if v = 0#8 then (k, b) :: m else (a, v) :: (k, b) :: m)
    else if a = k then (if v = 0#8 then m else (a, v) :: m)
    else (k, b) :: writeByte m a v

/-- The memory whose bytes from address `k` up are an image's. -/
def ofImageFrom : Nat → Image → Memory
  | _, [] => []
  | k, b :: bs => if b = 0#8 then ofImageFrom (k + 1) bs else (k, b) :: ofImageFrom (k + 1) bs

/-- The memory an image fills, byte 0 at offset 0 (spec R60). -/
def ofImage (img : Image) : Memory := ofImageFrom 0 img

/-- The 8192 bytes of WRAM in offset order (spec R60). -/
def toImage (m : Memory) : Image := (List.range wramSize).map (readByte m)

/-- `zeros(8192)`, spec R102. -/
def zeros : Memory := []

/-! ### Outcomes -/

/-- Answer a response in state `s` (spec R12). -/
def respond (r : Response) (s : State) : Out := .next { s with response := some r }

/-- `raise F_<NAME>(info)`, spec R11: the fault is recorded (spec R201), no other field of the engine changes
(spec R202), and there is no response. The record then stops every later step (assumption log 2). -/
def raise (code : FaultCode) (w : CmdWord) (operand : FaultOperand) (s : State) : Out :=
  .next { s with fault := some ⟨code, w, operand⟩, response := none }

/-- A command's lifecycle check (spec R203), then its own rule. -/
def checked (fault : Option FaultCode) (w : CmdWord) (s : State) (k : Out) : Out :=
  match fault with
  | some f => raise f w .nothing s
  | none => k

/-- The lifecycle check of a command that reads the configuration. A configuration that is ⊥ means `Absent` (spec R24),
so reading it raises `F_NO_INSTANCE` (spec R10, assumption log 7). -/
def withCfg (fault : Option FaultCode) (w : CmdWord) (s : State) (k : Cfg → Out) : Out :=
  checked fault w s
    (match s.cfg with
      | some c => k c
      | none => raise .noInstance w .nothing s)

/-! ### Bank calls -/

/-- PRG slots with slot `i` holding bank `b`. -/
def prgSet (p : PrgSlots) (i b : Nat) : PrgSlots :=
  match i with
  | 0 => { p with s0 := some b }
  | 1 => { p with s1 := some b }
  | 2 => { p with s2 := some b }
  | 3 => { p with s3 := some b }
  | _ => p

/-- CHR slots with slot `j` holding bank `b`. -/
def chrSet (p : ChrSlots) (j b : Nat) : ChrSlots :=
  match j with
  | 0 => { p with s0 := some b }
  | 1 => { p with s1 := some b }
  | 2 => { p with s2 := some b }
  | 3 => { p with s3 := some b }
  | 4 => { p with s4 := some b }
  | 5 => { p with s5 := some b }
  | 6 => { p with s6 := some b }
  | 7 => { p with s7 := some b }
  | _ => p

/-- `SET_PRG8`, spec R163. -/
def applySetPrg8 (w : Addr) (b : Nat) (m : BankMap) : BankMap := { m with prg := prgSet m.prg (prgSlot w) b }

/-- `SET_PRG16`, spec R164. -/
def applySetPrg16 (w : Addr) (b : Nat) (m : BankMap) : BankMap :=
  { m with prg := prgSet (prgSet m.prg (prgSlot w) (2 * b)) (prgSlot w + 1) (2 * b + 1) }

/-- `SET_PRG32`, spec R165. -/
def applySetPrg32 (b : Nat) (m : BankMap) : BankMap :=
  { m with prg := ⟨some (4 * b), some (4 * b + 1), some (4 * b + 2), some (4 * b + 3)⟩ }

/-- `SET_CHR1`, spec R166. -/
def applySetChr1 (w : Addr) (b : Nat) (m : BankMap) : BankMap := { m with chr := chrSet m.chr (chrSlot w) b }

/-- `SET_CHR4`, spec R167. -/
def applySetChr4 (w : Addr) (b : Nat) (m : BankMap) : BankMap :=
  { m with chr := chrSet (chrSet (chrSet (chrSet m.chr (chrSlot w) (4 * b)) (chrSlot w + 1) (4 * b + 1))
      (chrSlot w + 2) (4 * b + 2)) (chrSlot w + 3) (4 * b + 3) }

/-- `SET_CHR8`, spec R168. -/
def applySetChr8 (b : Nat) (m : BankMap) : BankMap :=
  { m with chr := ⟨some (8 * b), some (8 * b + 1), some (8 * b + 2), some (8 * b + 3), some (8 * b + 4),
      some (8 * b + 5), some (8 * b + 6), some (8 * b + 7)⟩ }

/-- `SET_MIRROR`, spec R169. -/
def applySetMirror (mode : Mirroring) (m : BankMap) : BankMap := { m with mirror := mode }

/-- `apply(c)` of spec R161. -/
def applyCall (m : BankMap) : BankCall → BankMap
  | .setPrg8 w b => applySetPrg8 w b m
  | .setPrg16 w b => applySetPrg16 w b m
  | .setPrg32 b => applySetPrg32 b m
  | .setChr1 w b => applySetChr1 w b m
  | .setChr4 w b => applySetChr4 w b m
  | .setChr8 b => applySetChr8 b m
  | .setMirror mode => applySetMirror mode m

/-- The calls in list order; a later call to a slot wins (spec R162). -/
def applyCalls (calls : List BankCall) (m : BankMap) : BankMap := calls.foldl applyCall m

/-- A bank call on its own: its effect where its window is one its rule names, and no other state changes (spec R161, assumption logs 10
and 11). -/
def bankCall (ok : Bool) (f : BankMap → BankMap) (s : State) : Out :=
  if ok then .next { s with bank := f s.bank } else .refused .windowNotNamed

/-! ### Sync -/

/-- `Sync()` of spec R161 with a decode: it reads the latch, applies the calls and hands them on; the response is the
caller's. -/
def syncWith (calls : Byte → List BankCall) (w : CmdWord) (s : State) (k : List BankCall → State → Out) : Out :=
  match s.latch with
  | some latch => k (calls latch) { s with bank := applyCalls (calls latch) s.bank }
  | none => raise .notPowered w .nothing s

/-- `Sync()` of spec R161 under a configuration. -/
def sync (c : Cfg) (w : CmdWord) (s : State) (k : List BankCall → State → Out) : Out := syncWith (syncCalls c) w s k

/-- One variant run as Sync runs it (spec R161, R172 to R175): over the state's latch, and the submapper and ROM size of
its configuration, whichever variant that one binds (assumption log 9). The calls are the response. -/
def runVariant (v : Variant) (w : CmdWord) (s : State) : Out :=
  withCfg none w s fun c =>
    syncWith (fun latch => decodeCalls v latch c.submapper c.prgBanks16) w s fun calls s' => respond (.calls calls) s'

/-- A reserved variant tag: INIT refuses it (spec R176, R77), after its lifecycle check (spec R204, assumption log 13). -/
def refuseTag (w : CmdWord) (s : State) : Out :=
  checked (lifeInit s.life) w s (raise .configInvalid w (.check .variantTag) s)

/-! ### Bus accesses -/

/-- The effective value of a latch write (spec R131 to R133), or the fault it raises. The conflict byte is read under
the bank map before the write (spec R132). -/
def effective (c : Cfg) (a : Addr) (v : Byte) (s : State) : Except (FaultCode × FaultOperand) Byte :=
  if c.busConflict then
    if inRomWin a then
      match romByte c s.bank a with
      | some b => .ok (v &&& b)
      | none => .error (.notPowered, .addr a)
    else .error (.conflictUnmapped, .addr a)
  else .ok v

/-- LATCH_WRITE, spec R131. -/
def latchWrite (c : Cfg) (w : CmdWord) (a : Addr) (v : Byte) (s : State) : Out :=
  match effective c a v s with
  | .ok eff => sync c w { s with latch := some eff } fun calls s' => respond (.write true calls) s'
  | .error (code, operand) => raise code w operand s

/-- WRAM_WRITE, spec R134. -/
def wramWrite (a : Addr) (v : Byte) (s : State) : Out :=
  match s.wram with
  | some m => respond (.write true []) { s with wram := some (writeByte m (wramOffset a) v) }
  | none => .fault .wramAbsent

/-- IGNORED_WRITE, spec R135. -/
def ignoredWrite (s : State) : Out := respond (.write false []) s

/-- WRAM_READ, spec R137. -/
def wramRead (a : Addr) (s : State) : Out :=
  match s.wram with
  | some m => respond (.byte (some (readByte m (wramOffset a)))) s
  | none => .fault .wramAbsent

/-- ROM_READ, spec R138; a ⊥ slot raises `F_NOT_POWERED(a)` (spec R57). -/
def romRead (c : Cfg) (w : CmdWord) (a : Addr) (s : State) : Out :=
  match romByte c s.bank a with
  | some b => respond (.byte (some b)) s
  | none => raise .notPowered w (.addr a) s

/-- UNHANDLED_READ, spec R139: the host supplies the bus value (assumption log 18). -/
def unhandledRead (s : State) : Out := respond (.byte none) s

/-- A sub-operation where its address class holds, after the lifecycle check of its command (spec R130, R136). -/
def ofClass (here : Bool) (k : Out) : Out := if here then k else .refused .addressOfAnotherOperation

/-! ### Images -/

/-- The shape STATE_LOAD requires of its image: 8192 bytes with WRAM, none without (spec R109). -/
def snapshotShapeOk (c : Cfg) (img : Option Image) : Bool :=
  match c.hasWram, img with
  | true, some x => x.length == wramSize
  | true, none => false
  | false, some _ => false
  | false, none => true

/-- WRAM after STATE_LOAD (spec R109): the image where there is WRAM. -/
def loadedWram (c : Cfg) (img : Option Image) (old : Option Memory) : Option Memory :=
  if c.hasWram then img.map ofImage else old

/-- `F_SNAPSHOT_SHAPE(img)`, whose operand is the payload's length (spec R201). -/
def raiseShape (w : CmdWord) (img : Option Image) (s : State) : Out :=
  raise .snapshotShape w (.payloadLength (img.map List.length)) s

end Sys2Proof.Machine
end

