-- ==== Sys2Proof/Machine/Bus.lean ====
section
/-! DEFINITION. CPU_WRITE and CPU_READ, and the six sub-operations they are further decoded to (spec R76, R130 to R139). -/

namespace Sys2Proof.Machine

/-- CPU_WRITE, spec R130. -/
def execWrite (a : Addr) (v : Byte) (s : State) : Out :=
  withCfg (lifeRunning s.life) (Instr.write a v).word s fun c =>
    match classifyWrite c a with
    | .latch => latchWrite c (Instr.write a v).word a v s
    | .wram => wramWrite a v s
    | .ignored => ignoredWrite s

/-- CPU_READ, spec R136. -/
def execRead (a : Addr) (s : State) : Out :=
  withCfg (lifeRunning s.life) (Instr.read a).word s fun c =>
    match classifyRead c a with
    | .wram => wramRead a s
    | .rom => romRead c (Instr.read a).word a s
    | .unhandled => unhandledRead s

/-- LATCH_WRITE, spec R131: CPU_WRITE with `a` in `LATCH_WIN`. -/
def execLatchWrite (a : Addr) (v : Byte) (s : State) : Out :=
  withCfg (lifeRunning s.life) (Instr.latchWrite a v).word s fun c =>
    ofClass (classifyWrite c a == .latch) (latchWrite c (Instr.latchWrite a v).word a v s)

/-- WRAM_WRITE, spec R134: CPU_WRITE with `a` in `WRAM_WIN` and outside `LATCH_WIN`, and WRAM present. -/
def execWramWrite (a : Addr) (v : Byte) (s : State) : Out :=
  withCfg (lifeRunning s.life) (Instr.wramWrite a v).word s fun c =>
    ofClass (classifyWrite c a == .wram) (wramWrite a v s)

/-- IGNORED_WRITE, spec R135: CPU_WRITE whose address matches neither other rule. -/
def execIgnoredWrite (a : Addr) (v : Byte) (s : State) : Out :=
  withCfg (lifeRunning s.life) (Instr.ignoredWrite a v).word s fun c =>
    ofClass (classifyWrite c a == .ignored) (ignoredWrite s)

/-- WRAM_READ, spec R137: CPU_READ with `a` in `WRAM_WIN`, and WRAM present. -/
def execWramRead (a : Addr) (s : State) : Out :=
  withCfg (lifeRunning s.life) (Instr.wramRead a).word s fun c =>
    ofClass (classifyRead c a == .wram) (wramRead a s)

/-- ROM_READ, spec R138: CPU_READ with `a` in `ROM_WIN`. -/
def execRomRead (a : Addr) (s : State) : Out :=
  withCfg (lifeRunning s.life) (Instr.romRead a).word s fun c =>
    ofClass (classifyRead c a == .rom) (romRead c (Instr.romRead a).word a s)

/-- UNHANDLED_READ, spec R139: CPU_READ whose address matches neither other rule. -/
def execUnhandledRead (a : Addr) (s : State) : Out :=
  withCfg (lifeRunning s.life) (Instr.unhandledRead a).word s fun c =>
    ofClass (classifyRead c a == .unhandled) (unhandledRead s)

end Sys2Proof.Machine
end

