-- ==== Sys2Proof/Machine/Lifecycle.lean ====
section
/-! DEFINITION. The lifecycle commands: INIT, POWER_ON, STATE_SAVE, STATE_LOAD, CLOSE, BATTERY_LOAD and BATTERY_SAVE
(spec R100 to R114). -/

namespace Sys2Proof.Machine

/-- The state INIT leaves, spec R100, R101, R102. -/
def initState (c : Cfg) (s : State) : State :=
  { s with
    cfg := some c
    latch := none
    wram := if c.hasWram then some zeros else none
    bank := BankMap.initial c.headerMirroring
    life := .unpowered }

/-- INIT, spec R100. A missing record fails the check (assumption log 6). -/
def execInit (r : Option CfgRecord) (s : State) : Out :=
  checked (lifeInit s.life) (Instr.init r).word s
    (match r with
      | none => raise .configInvalid (Instr.init r).word (.check .recordMissing) s
      | some rec =>
        match bindRecord rec with
        | .ok c => respond .unit (initState c s)
        | .error e => raise .configInvalid (Instr.init r).word (.check e) s)

/-- POWER_ON, spec R104 to R107: the handler table is a function of `life` and `cfg` (spec R24). -/
def execPowerOn (s : State) : Out :=
  withCfg (lifePowerOn s.life) Instr.powerOn.word s fun c =>
    sync c Instr.powerOn.word { s with latch := some c.initLatch } fun calls s' =>
      respond (.powerOn calls c.hasWram) { s' with life := .powered }

/-- STATE_SAVE, spec R108. A ⊥ latch, which no powered run meets, raises `F_NOT_POWERED`: the spec asks for a fault and
does not name it (spec R10; DESIGN CHOICE, assumption log 19). -/
def execSaveState (s : State) : Out :=
  withCfg (lifeRunning s.life) Instr.saveState.word s fun c =>
    match s.latch with
    | none => raise .notPowered Instr.saveState.word .nothing s
    | some latch =>
      if c.hasWram then
        match s.wram with
        | some m => respond (.snapshot latch (some (toImage m))) s
        | none => .fault .wramAbsent
      else respond (.snapshot latch none) s

/-- STATE_LOAD, spec R109, R110. -/
def execLoadState (d : Byte) (img : Option Image) (s : State) : Out :=
  withCfg (lifeRunning s.life) (Instr.loadState d img).word s fun c =>
    if snapshotShapeOk c img then
      sync c (Instr.loadState d img).word { s with latch := some d, wram := loadedWram c img s.wram } fun calls s' =>
        respond (.calls calls) s'
    else raiseShape (Instr.loadState d img).word img s

/-- CLOSE, spec R111, R112. -/
def execClose (s : State) : Out :=
  checked (lifeClose s.life) Instr.close.word s (respond .unit { s with wram := none, life := .closed })

/-- BATTERY_LOAD, spec R113. -/
def execBatteryLoad (img : Option Image) (s : State) : Out :=
  withCfg (lifeBatteryLoad s.life) (Instr.batteryLoad img).word s fun c =>
    if c.batterySave then
      match img with
      | some x =>
        if x.length = wramSize then respond .unit { s with wram := some (ofImage x) }
        else raiseShape (Instr.batteryLoad img).word img s
      | none => raiseShape (Instr.batteryLoad img).word img s
    else raise .noBattery (Instr.batteryLoad img).word .nothing s

/-- BATTERY_SAVE, spec R114. -/
def execBatterySave (s : State) : Out :=
  withCfg (lifeBatterySave s.life) Instr.batterySave.word s fun c =>
    if c.batterySave then
      match s.wram with
      | some m => respond (.image (toImage m)) s
      | none => .fault .wramAbsent
    else raise .noBattery Instr.batterySave.word .nothing s

end Sys2Proof.Machine
end

