-- ==== Sys2Proof/Machine/Reserved.lean ====
section
/-! DEFINITION. The reserved opcodes, which raise `F_ILLEGAL_OP` (spec R73), and the reserved variant tags, with which
INIT raises `F_CONFIG_INVALID` (spec R77, R176). -/

namespace Sys2Proof.Machine

/-- OP 0x9, spec R73. -/
def execReservedOp9 (rest : BitVec 28) (s : State) : Out := raise .illegalOp (Instr.reservedOp9 rest).word .nothing s

/-- OP 0xA, spec R73. -/
def execReservedOpA (rest : BitVec 28) (s : State) : Out := raise .illegalOp (Instr.reservedOpA rest).word .nothing s

/-- OP 0xB, spec R73. -/
def execReservedOpB (rest : BitVec 28) (s : State) : Out := raise .illegalOp (Instr.reservedOpB rest).word .nothing s

/-- OP 0xC, spec R73. -/
def execReservedOpC (rest : BitVec 28) (s : State) : Out := raise .illegalOp (Instr.reservedOpC rest).word .nothing s

/-- OP 0xD, spec R73. -/
def execReservedOpD (rest : BitVec 28) (s : State) : Out := raise .illegalOp (Instr.reservedOpD rest).word .nothing s

/-- OP 0xE, spec R73. -/
def execReservedOpE (rest : BitVec 28) (s : State) : Out := raise .illegalOp (Instr.reservedOpE rest).word .nothing s

/-- OP 0xF, spec R73. -/
def execReservedOpF (rest : BitVec 28) (s : State) : Out := raise .illegalOp (Instr.reservedOpF rest).word .nothing s

/-- Variant tag 4, spec R77, R176. -/
def execReservedVariant4 (s : State) : Out := refuseTag Instr.reservedVariant4.word s

/-- Variant tag 5, spec R77, R176. -/
def execReservedVariant5 (s : State) : Out := refuseTag Instr.reservedVariant5.word s

/-- Variant tag 6, spec R77, R176. -/
def execReservedVariant6 (s : State) : Out := refuseTag Instr.reservedVariant6.word s

/-- Variant tag 7, spec R77, R176. -/
def execReservedVariant7 (s : State) : Out := refuseTag Instr.reservedVariant7.word s

/-- Variant tag 8, spec R77, R176. -/
def execReservedVariant8 (s : State) : Out := refuseTag Instr.reservedVariant8.word s

/-- Variant tag 9, spec R77, R176. -/
def execReservedVariant9 (s : State) : Out := refuseTag Instr.reservedVariant9.word s

/-- Variant tag 10, spec R77, R176. -/
def execReservedVariant10 (s : State) : Out := refuseTag Instr.reservedVariant10.word s

/-- Variant tag 11, spec R77, R176. -/
def execReservedVariant11 (s : State) : Out := refuseTag Instr.reservedVariant11.word s

/-- Variant tag 12, spec R77, R176. -/
def execReservedVariant12 (s : State) : Out := refuseTag Instr.reservedVariant12.word s

/-- Variant tag 13, spec R77, R176. -/
def execReservedVariant13 (s : State) : Out := refuseTag Instr.reservedVariant13.word s

/-- Variant tag 14, spec R77, R176. -/
def execReservedVariant14 (s : State) : Out := refuseTag Instr.reservedVariant14.word s

/-- Variant tag 15, spec R77, R176. -/
def execReservedVariant15 (s : State) : Out := refuseTag Instr.reservedVariant15.word s

end Sys2Proof.Machine
end

