-- ==== Sys2Proof/Machine/Sync.lean ====
section
/-! DEFINITION. The variants run as Sync runs them (spec R161, R172 to R175), and the bank calls (spec R163 to R169). -/

namespace Sys2Proof.Machine

/-- PRG16_LOW_SWITCH, spec R172. -/
def execPrg16LowSwitch (s : State) : Out := runVariant .prg16LowSwitch Instr.prg16LowSwitch.word s

/-- CHR8_SWITCH, spec R173. -/
def execChr8Switch (s : State) : Out := runVariant .chr8Switch Instr.chr8Switch.word s

/-- COMBINED, spec R174. -/
def execCombined (p : CombinedParams) (s : State) : Out := runVariant (.combined p) (Instr.combined p).word s

/-- SUBMAPPER_POLARITY, spec R175. -/
def execSubmapperPolarity (p : PolarityParams) (s : State) : Out :=
  runVariant (.submapperPolarity p) (Instr.submapperPolarity p).word s

/-- SET_PRG8, spec R163. -/
def execSetPrg8 (w : Addr) (b : Nat) (s : State) : Out := bankCall (prg8Window w) (applySetPrg8 w b) s

/-- SET_PRG16, spec R164. -/
def execSetPrg16 (w : Addr) (b : Nat) (s : State) : Out := bankCall (prg16Window w) (applySetPrg16 w b) s

/-- SET_PRG32, spec R165. -/
def execSetPrg32 (b : Nat) (s : State) : Out := bankCall true (applySetPrg32 b) s

/-- SET_CHR1, spec R166. -/
def execSetChr1 (w : Addr) (b : Nat) (s : State) : Out := bankCall (chr1Window w) (applySetChr1 w b) s

/-- SET_CHR4, spec R167. -/
def execSetChr4 (w : Addr) (b : Nat) (s : State) : Out := bankCall (chr4Window w) (applySetChr4 w b) s

/-- SET_CHR8, spec R168. -/
def execSetChr8 (b : Nat) (s : State) : Out := bankCall true (applySetChr8 b) s

/-- SET_MIRROR, spec R169. -/
def execSetMirror (m : Mirroring) (s : State) : Out := bankCall true (applySetMirror m) s

end Sys2Proof.Machine
end

