-- ==== Sys2Proof/Machine/Dispatch.lean ====
section
/-! DEFINITION. The dispatch of instructions to their meanings, one arm per row of the opcode table. -/

namespace Sys2Proof.Machine

def exec (i : Instr) (s : State) : Host.Outcome State Fault Refusal :=
  match i with
  | .init cfg => Sys2Proof.Machine.execInit cfg s
  | .powerOn => Sys2Proof.Machine.execPowerOn s
  | .write a v => Sys2Proof.Machine.execWrite a v s
  | .read a => Sys2Proof.Machine.execRead a s
  | .saveState => Sys2Proof.Machine.execSaveState s
  | .loadState d img => Sys2Proof.Machine.execLoadState d img s
  | .close => Sys2Proof.Machine.execClose s
  | .batteryLoad img => Sys2Proof.Machine.execBatteryLoad img s
  | .batterySave => Sys2Proof.Machine.execBatterySave s
  | .reservedOp9 rest => Sys2Proof.Machine.execReservedOp9 rest s
  | .reservedOpA rest => Sys2Proof.Machine.execReservedOpA rest s
  | .reservedOpB rest => Sys2Proof.Machine.execReservedOpB rest s
  | .reservedOpC rest => Sys2Proof.Machine.execReservedOpC rest s
  | .reservedOpD rest => Sys2Proof.Machine.execReservedOpD rest s
  | .reservedOpE rest => Sys2Proof.Machine.execReservedOpE rest s
  | .reservedOpF rest => Sys2Proof.Machine.execReservedOpF rest s
  | .latchWrite a v => Sys2Proof.Machine.execLatchWrite a v s
  | .wramWrite a v => Sys2Proof.Machine.execWramWrite a v s
  | .ignoredWrite a v => Sys2Proof.Machine.execIgnoredWrite a v s
  | .wramRead a => Sys2Proof.Machine.execWramRead a s
  | .romRead a => Sys2Proof.Machine.execRomRead a s
  | .unhandledRead a => Sys2Proof.Machine.execUnhandledRead a s
  | .prg16LowSwitch => Sys2Proof.Machine.execPrg16LowSwitch s
  | .chr8Switch => Sys2Proof.Machine.execChr8Switch s
  | .combined p => Sys2Proof.Machine.execCombined p s
  | .submapperPolarity p => Sys2Proof.Machine.execSubmapperPolarity p s
  | .reservedVariant4 => Sys2Proof.Machine.execReservedVariant4 s
  | .reservedVariant5 => Sys2Proof.Machine.execReservedVariant5 s
  | .reservedVariant6 => Sys2Proof.Machine.execReservedVariant6 s
  | .reservedVariant7 => Sys2Proof.Machine.execReservedVariant7 s
  | .reservedVariant8 => Sys2Proof.Machine.execReservedVariant8 s
  | .reservedVariant9 => Sys2Proof.Machine.execReservedVariant9 s
  | .reservedVariant10 => Sys2Proof.Machine.execReservedVariant10 s
  | .reservedVariant11 => Sys2Proof.Machine.execReservedVariant11 s
  | .reservedVariant12 => Sys2Proof.Machine.execReservedVariant12 s
  | .reservedVariant13 => Sys2Proof.Machine.execReservedVariant13 s
  | .reservedVariant14 => Sys2Proof.Machine.execReservedVariant14 s
  | .reservedVariant15 => Sys2Proof.Machine.execReservedVariant15 s
  | .setPrg8 w b => Sys2Proof.Machine.execSetPrg8 w b s
  | .setPrg16 w b => Sys2Proof.Machine.execSetPrg16 w b s
  | .setPrg32 b => Sys2Proof.Machine.execSetPrg32 b s
  | .setChr1 w b => Sys2Proof.Machine.execSetChr1 w b s
  | .setChr4 w b => Sys2Proof.Machine.execSetChr4 w b s
  | .setChr8 b => Sys2Proof.Machine.execSetChr8 b s
  | .setMirror m => Sys2Proof.Machine.execSetMirror m s

end Sys2Proof.Machine
end

