-- ==== Sys2Proof/Machine/Fetch.lean ====
section
/-! DEFINITION. Fetching: the next command is the oldest one the host has delivered (spec R34, R65); a recorded fault
leaves no command a step (spec R202); a word whose unused fields are not 0 raises `F_RESERVED_FIELD` (spec R72). -/

namespace Sys2Proof.Machine

/-- Run one command: `step(s, cmd, payload)` of spec R12. -/
def runCommand (c : Command) (s : State) : Out :=
  match decode c.word c.payload with
  | .ok i => exec i s
  | .error .reservedField => raise .reservedField c.word .nothing s

/-- Take the next command and run it. -/
def runNext (s : State) : Out :=
  match s.fault with
  | some r => .fault (.sticky r)
  | none =>
    match s.input with
    | [] => .fault .noCommand
    | c :: rest => runCommand c { s with input := rest }

/-- `s` with a command delivered ahead of every other, and no fault in its way. -/
def withCommand (s : State) (c : Command) : State := { s with fault := none, input := c :: s.input }

/-- `s` with a variant tag where the machine takes it from (spec R77). A reserved tag stands in the record of an INIT
about to run. An admitted one is bound in a configuration about to be powered on, whose Sync runs it (spec R104). -/
def withVariantTag (s : State) (t : BitVec 4) : State :=
  match bindRecord (tableRecord (tableVariant t)) with
  | .ok c => withCommand { s with life := .unpowered, cfg := some c, latch := none, wram := none } ⟨Instr.powerOn.word, {}⟩
  | .error _ => withCommand { s with life := .absent, cfg := none } ⟨(Instr.init none).word, { cfg := some (tableRecord (tableVariant t)) }⟩

/-- `s` with an opcode-table word where the machine takes it from. -/
def storeTableWord (s : State) (nbits w : Nat) : State :=
  if nbits ≤ 8 then withVariantTag s (BitVec.ofNat 4 w)
  else withCommand s ⟨BitVec.ofNat 32 w, tablePayload⟩

end Sys2Proof.Machine
end

