-- ==== Sys2Proof/Machine/Step.lean ====
section
/-! DEFINITION. One step of the machine: one command, atomically (spec R12, R62). -/

namespace Sys2Proof.Machine

/-- One step: the oldest command delivered is run. -/
def step (s : State) : Host.Outcome State Fault Refusal := runNext s

/-- `s` with an opcode-table word where `step` takes its next command from (assumption log 12). -/
def State.withFetchWord (s : State) (nbits w : Nat) : State := storeTableWord s nbits w

end Sys2Proof.Machine
end

