-- ==== Sys2Proof/Laws/Decode.lean ====
section
/-! SUPPORT. Laws of the encoding: the fields of an assembled word, and the word its fields make. -/

namespace Sys2Proof.Laws

theorem opField_assembleWord (op : BitVec 4) (a : Addr) (d : Byte) : opField (assembleWord op a d) = op := by
  ext i hi
  simp only [opField, assembleWord, BitVec.getElem_extractLsb', BitVec.getLsbD_cast, BitVec.getLsbD_append]
  rw [if_neg (by omega)]
  simp [BitVec.getLsbD_eq_getElem hi]

theorem rsvField_assembleWord (op : BitVec 4) (a : Addr) (d : Byte) : rsvField (assembleWord op a d) = 0 := by
  ext i hi
  simp only [rsvField, assembleWord, BitVec.getElem_extractLsb', BitVec.getLsbD_cast, BitVec.getLsbD_append]
  rw [if_pos (by omega), if_neg (by omega)]
  simp

theorem addrField_assembleWord (op : BitVec 4) (a : Addr) (d : Byte) : addrField (assembleWord op a d) = a := by
  ext i hi
  simp only [addrField, assembleWord, BitVec.getElem_extractLsb', BitVec.getLsbD_cast, BitVec.getLsbD_append]
  rw [if_pos (by omega), if_pos (by omega), if_neg (by omega)]
  simp [BitVec.getLsbD_eq_getElem hi]

theorem dataField_assembleWord (op : BitVec 4) (a : Addr) (d : Byte) : dataField (assembleWord op a d) = d := by
  ext i hi
  simp only [dataField, assembleWord, BitVec.getElem_extractLsb', BitVec.getLsbD_cast, BitVec.getLsbD_append]
  rw [if_pos (by omega), if_pos (by omega), if_pos (by omega)]
  simp [BitVec.getLsbD_eq_getElem hi]

theorem opField_reservedWord (op : BitVec 4) (x : BitVec 28) : opField (reservedWord op x) = op := by
  ext i hi
  simp only [opField, reservedWord, BitVec.getElem_extractLsb', BitVec.getLsbD_cast, BitVec.getLsbD_append]
  rw [if_neg (by omega)]
  simp [BitVec.getLsbD_eq_getElem hi]

theorem restField_reservedWord (op : BitVec 4) (x : BitVec 28) : restField (reservedWord op x) = x := by
  ext i hi
  simp only [restField, reservedWord, BitVec.getElem_extractLsb', BitVec.getLsbD_cast, BitVec.getLsbD_append]
  rw [if_pos (by omega)]
  simp [BitVec.getLsbD_eq_getElem hi]

/-- A word is its `OP` above the rest. -/
theorem reservedWord_fields (w : CmdWord) : reservedWord (opField w) (restField w) = w := by
  ext i hi
  simp only [restField, opField, reservedWord, BitVec.getElem_cast, BitVec.getElem_append, BitVec.getElem_extractLsb']
  split
  · rw [Nat.zero_add, BitVec.getLsbD_eq_getElem hi]
  · rw [show 28 + (i - 28) = i by omega, BitVec.getLsbD_eq_getElem hi]

/-- A word whose `RSV` is 0 is assembled from its other fields. -/
theorem assembleWord_fields (w : CmdWord) (h : rsvField w = 0) :
    assembleWord (opField w) (addrField w) (dataField w) = w := by
  ext i hi
  simp only [dataField, addrField, opField, assembleWord, BitVec.getElem_cast, BitVec.getElem_append,
    BitVec.getElem_extractLsb']
  split
  · split
    · split
      · rw [Nat.zero_add, BitVec.getLsbD_eq_getElem hi]
      · rw [show 8 + (i - 8) = i by omega, BitVec.getLsbD_eq_getElem hi]
    · have hr := congrArg (fun x => x.getLsbD (i - 24)) h
      simp only [rsvField, BitVec.getLsbD_extractLsb'] at hr
      rw [show 24 + (i - 24) = i by omega, BitVec.getLsbD_eq_getElem hi] at hr
      simp only [decide_eq_true (show i - 24 < 4 by omega), Bool.true_and] at hr
      rw [hr]; simp
  · rw [show 28 + (i - (4 + (16 + 8))) = i by omega, BitVec.getLsbD_eq_getElem hi]

@[simp] theorem mirroring_ofCode_code (m : Mirroring) : Mirroring.ofCode m.code = some m := by cases m <;> rfl

@[simp] theorem prgMode_ofCode_code (m : PrgMode) : PrgMode.ofCode m.code = some m := by cases m <;> rfl

@[simp] theorem bitIndex_val (k : Fin 8) : bitIndex k.val = some k := by simp [bitIndex]

@[simp] theorem decodeMirBit_val (k : Option (Fin 8)) : decodeMirBit (k.map Fin.val) = some k := by
  cases k <;> simp [decodeMirBit]

/-- A variant's record decodes to the variant. -/
@[simp] theorem decodeVariant_encodeVariant (v : Variant) : decodeVariant (encodeVariant v) = .ok v := by
  cases v <;> simp [decodeVariant, encodeVariant, decodeCombined, decodePolarity, decodeLayout]

end Sys2Proof.Laws
end

