-- ==== Sys2Proof/Laws/PerInstr.lean ====
section
/-! SUPPORT. The statement families made per instruction, with one lemma per constructor of `Instr`. -/

namespace Sys2Proof.Laws

/-- Decoding what encodes an instruction gives the instruction back, or the command that a sub-operation's word decodes
to before its address is looked at; a bank call has no encoding. -/
def RoundTrip.Statement (i : Instr) : Prop :=
  encode i = .internal ∨ decodeEncoding (encode i) = some i.command

/-- The round trip of a command word, from the instruction its fields select. -/
theorem roundTrip_of_decode {i : Instr} (he : encode i = .command i.word i.payload)
    (hd : decode i.word i.payload = .ok i.command) : RoundTrip.Statement i :=
  .inr (by rw [he]; simp [decodeEncoding, hd, Except.toOption])

theorem RoundTrip.init (cfg : Option CfgRecord) : RoundTrip.Statement (.init cfg) :=
  roundTrip_of_decode rfl (by
    simp [decode, Instr.word, Instr.command, fieldsOk, Instr.payload, opField_assembleWord,
      rsvField_assembleWord, addrField_assembleWord, dataField_assembleWord])

theorem RoundTrip.powerOn : RoundTrip.Statement .powerOn :=
  roundTrip_of_decode rfl (by
    simp [decode, Instr.word, Instr.command, fieldsOk, opField_assembleWord,
      rsvField_assembleWord, addrField_assembleWord, dataField_assembleWord])

theorem RoundTrip.write (a : Addr) (v : Byte) : RoundTrip.Statement (.write a v) :=
  roundTrip_of_decode rfl (by
    simp [decode, Instr.word, Instr.command, fieldsOk, opField_assembleWord,
      rsvField_assembleWord, addrField_assembleWord, dataField_assembleWord])

theorem RoundTrip.read (a : Addr) : RoundTrip.Statement (.read a) :=
  roundTrip_of_decode rfl (by
    simp [decode, Instr.word, Instr.command, fieldsOk, opField_assembleWord,
      rsvField_assembleWord, addrField_assembleWord, dataField_assembleWord])

theorem RoundTrip.saveState : RoundTrip.Statement .saveState :=
  roundTrip_of_decode rfl (by
    simp [decode, Instr.word, Instr.command, fieldsOk, opField_assembleWord,
      rsvField_assembleWord, addrField_assembleWord, dataField_assembleWord])

theorem RoundTrip.loadState (d : Byte) (img : Option Image) : RoundTrip.Statement (.loadState d img) :=
  roundTrip_of_decode rfl (by
    simp [decode, Instr.word, Instr.command, fieldsOk, Instr.payload, opField_assembleWord,
      rsvField_assembleWord, addrField_assembleWord, dataField_assembleWord])

theorem RoundTrip.close : RoundTrip.Statement .close :=
  roundTrip_of_decode rfl (by
    simp [decode, Instr.word, Instr.command, fieldsOk, opField_assembleWord,
      rsvField_assembleWord, addrField_assembleWord, dataField_assembleWord])

theorem RoundTrip.batteryLoad (img : Option Image) : RoundTrip.Statement (.batteryLoad img) :=
  roundTrip_of_decode rfl (by
    simp [decode, Instr.word, Instr.command, fieldsOk, Instr.payload, opField_assembleWord,
      rsvField_assembleWord, addrField_assembleWord, dataField_assembleWord])

theorem RoundTrip.batterySave : RoundTrip.Statement .batterySave :=
  roundTrip_of_decode rfl (by
    simp [decode, Instr.word, Instr.command, fieldsOk, opField_assembleWord,
      rsvField_assembleWord, addrField_assembleWord, dataField_assembleWord])

theorem RoundTrip.reservedOp9 (rest : BitVec 28) : RoundTrip.Statement (.reservedOp9 rest) :=
  roundTrip_of_decode rfl (by
    simp [decode, Instr.word, Instr.command, opField_reservedWord, restField_reservedWord])

theorem RoundTrip.reservedOpA (rest : BitVec 28) : RoundTrip.Statement (.reservedOpA rest) :=
  roundTrip_of_decode rfl (by
    simp [decode, Instr.word, Instr.command, opField_reservedWord, restField_reservedWord])

theorem RoundTrip.reservedOpB (rest : BitVec 28) : RoundTrip.Statement (.reservedOpB rest) :=
  roundTrip_of_decode rfl (by
    simp [decode, Instr.word, Instr.command, opField_reservedWord, restField_reservedWord])

theorem RoundTrip.reservedOpC (rest : BitVec 28) : RoundTrip.Statement (.reservedOpC rest) :=
  roundTrip_of_decode rfl (by
    simp [decode, Instr.word, Instr.command, opField_reservedWord, restField_reservedWord])

theorem RoundTrip.reservedOpD (rest : BitVec 28) : RoundTrip.Statement (.reservedOpD rest) :=
  roundTrip_of_decode rfl (by
    simp [decode, Instr.word, Instr.command, opField_reservedWord, restField_reservedWord])

theorem RoundTrip.reservedOpE (rest : BitVec 28) : RoundTrip.Statement (.reservedOpE rest) :=
  roundTrip_of_decode rfl (by
    simp [decode, Instr.word, Instr.command, opField_reservedWord, restField_reservedWord])

theorem RoundTrip.reservedOpF (rest : BitVec 28) : RoundTrip.Statement (.reservedOpF rest) :=
  roundTrip_of_decode rfl (by
    simp [decode, Instr.word, Instr.command, opField_reservedWord, restField_reservedWord])

theorem RoundTrip.latchWrite (a : Addr) (v : Byte) : RoundTrip.Statement (.latchWrite a v) :=
  roundTrip_of_decode rfl (by
    simp [decode, Instr.word, Instr.command, fieldsOk, opField_assembleWord,
      rsvField_assembleWord, addrField_assembleWord, dataField_assembleWord])

theorem RoundTrip.wramWrite (a : Addr) (v : Byte) : RoundTrip.Statement (.wramWrite a v) :=
  roundTrip_of_decode rfl (by
    simp [decode, Instr.word, Instr.command, fieldsOk, opField_assembleWord,
      rsvField_assembleWord, addrField_assembleWord, dataField_assembleWord])

theorem RoundTrip.ignoredWrite (a : Addr) (v : Byte) : RoundTrip.Statement (.ignoredWrite a v) :=
  roundTrip_of_decode rfl (by
    simp [decode, Instr.word, Instr.command, fieldsOk, opField_assembleWord,
      rsvField_assembleWord, addrField_assembleWord, dataField_assembleWord])

theorem RoundTrip.wramRead (a : Addr) : RoundTrip.Statement (.wramRead a) :=
  roundTrip_of_decode rfl (by
    simp [decode, Instr.word, Instr.command, fieldsOk, opField_assembleWord,
      rsvField_assembleWord, addrField_assembleWord, dataField_assembleWord])

theorem RoundTrip.romRead (a : Addr) : RoundTrip.Statement (.romRead a) :=
  roundTrip_of_decode rfl (by
    simp [decode, Instr.word, Instr.command, fieldsOk, opField_assembleWord,
      rsvField_assembleWord, addrField_assembleWord, dataField_assembleWord])

theorem RoundTrip.unhandledRead (a : Addr) : RoundTrip.Statement (.unhandledRead a) :=
  roundTrip_of_decode rfl (by
    simp [decode, Instr.word, Instr.command, fieldsOk, opField_assembleWord,
      rsvField_assembleWord, addrField_assembleWord, dataField_assembleWord])

theorem RoundTrip.prg16LowSwitch : RoundTrip.Statement .prg16LowSwitch :=
  .inr rfl

theorem RoundTrip.chr8Switch : RoundTrip.Statement .chr8Switch :=
  .inr rfl

theorem RoundTrip.combined (p : CombinedParams) : RoundTrip.Statement (.combined p) :=
  .inr (by
    have h := decodeVariant_encodeVariant (.combined p)
    simp [encodeVariant] at h
    simp [encode, decodeEncoding, decodeVariantRow, encodeVariant, h, Except.map, Except.toOption, Variant.toInstr,
      Instr.command])

theorem RoundTrip.submapperPolarity (p : PolarityParams) : RoundTrip.Statement (.submapperPolarity p) :=
  .inr (by
    have h := decodeVariant_encodeVariant (.submapperPolarity p)
    simp [encodeVariant] at h
    simp [encode, decodeEncoding, decodeVariantRow, encodeVariant, h, Except.map, Except.toOption, Variant.toInstr,
      Instr.command])

theorem RoundTrip.reservedVariant4 : RoundTrip.Statement .reservedVariant4 :=
  .inr rfl

theorem RoundTrip.reservedVariant5 : RoundTrip.Statement .reservedVariant5 :=
  .inr rfl

theorem RoundTrip.reservedVariant6 : RoundTrip.Statement .reservedVariant6 :=
  .inr rfl

theorem RoundTrip.reservedVariant7 : RoundTrip.Statement .reservedVariant7 :=
  .inr rfl

theorem RoundTrip.reservedVariant8 : RoundTrip.Statement .reservedVariant8 :=
  .inr rfl

theorem RoundTrip.reservedVariant9 : RoundTrip.Statement .reservedVariant9 :=
  .inr rfl

theorem RoundTrip.reservedVariant10 : RoundTrip.Statement .reservedVariant10 :=
  .inr rfl

theorem RoundTrip.reservedVariant11 : RoundTrip.Statement .reservedVariant11 :=
  .inr rfl

theorem RoundTrip.reservedVariant12 : RoundTrip.Statement .reservedVariant12 :=
  .inr rfl

theorem RoundTrip.reservedVariant13 : RoundTrip.Statement .reservedVariant13 :=
  .inr rfl

theorem RoundTrip.reservedVariant14 : RoundTrip.Statement .reservedVariant14 :=
  .inr rfl

theorem RoundTrip.reservedVariant15 : RoundTrip.Statement .reservedVariant15 :=
  .inr rfl

theorem RoundTrip.setPrg8 (w : Addr) (b : Nat) : RoundTrip.Statement (.setPrg8 w b) :=
  .inl rfl

theorem RoundTrip.setPrg16 (w : Addr) (b : Nat) : RoundTrip.Statement (.setPrg16 w b) :=
  .inl rfl

theorem RoundTrip.setPrg32 (b : Nat) : RoundTrip.Statement (.setPrg32 b) :=
  .inl rfl

theorem RoundTrip.setChr1 (w : Addr) (b : Nat) : RoundTrip.Statement (.setChr1 w b) :=
  .inl rfl

theorem RoundTrip.setChr4 (w : Addr) (b : Nat) : RoundTrip.Statement (.setChr4 w b) :=
  .inl rfl

theorem RoundTrip.setChr8 (b : Nat) : RoundTrip.Statement (.setChr8 b) :=
  .inl rfl

theorem RoundTrip.setMirror (m : Mirroring) : RoundTrip.Statement (.setMirror m) :=
  .inl rfl

end Sys2Proof.Laws
end

