-- ==== Sys2Proof/Machine/Assembler.lean ====
section
/-! DEFINITION. The assembler syntax of spec R79 and R80: one line, one command word. A line is a list of characters
(assumption log 17). -/

namespace Sys2Proof.Machine

/-- What is given beside a command stream (spec R79): INIT's record and the named images. -/
structure AsmContext where
  cfg : Option CfgRecord
  images : List (List Char × Image)
  deriving DecidableEq, Repr

/-- The line without its comment: `;` starts one that runs to the end. -/
def stripComment (line : List Char) : List Char := line.takeWhile (· ≠ ';')

/-- A blank between tokens. -/
def isBlank (c : Char) : Bool := c == ' ' || c == '\t' || c == '\r'

/-- The tokens of a line: words between blanks, and each comma by itself. `word` holds the present word, last character
first. -/
def tokens (word : List Char) : List Char → List (List Char)
  | [] => if word.isEmpty then [] else [word.reverse]
  | c :: cs =>
    if isBlank c then (if word.isEmpty then tokens [] cs else word.reverse :: tokens [] cs)
    else if c == ',' then (if word.isEmpty then [','] :: tokens [] cs else word.reverse :: [','] :: tokens [] cs)
    else tokens (c :: word) cs

/-- A letter A to Z in lower case; mnemonics are case-insensitive. -/
def lower (c : Char) : Char := if 'A'.toNat ≤ c.toNat && c.toNat ≤ 'Z'.toNat then Char.ofNat (c.toNat + 32) else c

/-- The value of a hexadecimal digit. -/
def hexDigit (c : Char) : Option Nat :=
  if '0'.toNat ≤ c.toNat && c.toNat ≤ '9'.toNat then some (c.toNat - '0'.toNat)
  else if 'a'.toNat ≤ (lower c).toNat && (lower c).toNat ≤ 'f'.toNat then some ((lower c).toNat - 'a'.toNat + 10)
  else none

/-- The value of hexadecimal digits after `acc`. -/
def hexValue (acc : Nat) : List Char → Option Nat
  | [] => some acc
  | c :: cs => match hexDigit c with
    | some d => hexValue (acc * 16 + d) cs
    | none => none

/-- A `$` number of 1 to `most` digits. -/
def dollarNumber (most : Nat) : List Char → Option Nat
  | '$' :: ds => if 1 ≤ ds.length && ds.length ≤ most then hexValue 0 ds else none
  | _ => none

/-- An address: 1 to 4 hex digits, zero-extended to 16 bits. -/
def asmAddr (t : List Char) : Option Addr := (dollarNumber 4 t).map (BitVec.ofNat 16)

/-- A data byte: `#` and 1 to 2 hex digits, zero-extended to 8 bits. -/
def asmData : List Char → Option Byte
  | '#' :: t => (dollarNumber 2 t).map (BitVec.ofNat 8)
  | _ => none

/-- A named image; `zeros` is the all-zero image. -/
def asmImage (x : AsmContext) (name : List Char) : Option Image :=
  if name = ['z', 'e', 'r', 'o', 's'] then some (List.replicate 8192 0)
  else (x.images.find? fun p => p.1 == name).map Prod.snd

/-- The mnemonics of spec R79. -/
inductive AsmOp where
  | init
  | powerOn
  | write
  | read
  | saveState
  | loadState
  | close
  | batteryLoad
  | batterySave
  deriving DecidableEq, Repr

/-- The mnemonic a token spells. -/
def asmOp (t : List Char) : Option AsmOp :=
  [ (['i', 'n', 'i', 't'], AsmOp.init),
    (['p', 'o', 'w', 'e', 'r', '_', 'o', 'n'], .powerOn),
    (['w', 'r', 'i', 't', 'e'], .write),
    (['r', 'e', 'a', 'd'], .read),
    (['s', 'a', 'v', 'e', '_', 's', 't', 'a', 't', 'e'], .saveState),
    (['l', 'o', 'a', 'd', '_', 's', 't', 'a', 't', 'e'], .loadState),
    (['c', 'l', 'o', 's', 'e'], .close),
    (['b', 'a', 't', 't', 'e', 'r', 'y', '_', 'l', 'o', 'a', 'd'], .batteryLoad),
    (['b', 'a', 't', 't', 'e', 'r', 'y', '_', 's', 'a', 'v', 'e'], .batterySave) ].lookup (t.map lower)

/-- The instruction a mnemonic and its operand tokens stand for. -/
def asmInstr (x : AsmContext) (op : AsmOp) (operands : List (List Char)) : Option Instr :=
  match op, operands with
  | .init, [] => some (.init x.cfg)
  | .powerOn, [] => some .powerOn
  | .write, [a, [','], d] => do some (.write (← asmAddr a) (← asmData d))
  | .read, [a] => do some (.read (← asmAddr a))
  | .saveState, [] => some .saveState
  | .loadState, [d] => do some (.loadState (← asmData d) none)
  | .loadState, [d, [','], img] => do some (.loadState (← asmData d) (some (← asmImage x img)))
  | .close, [] => some .close
  | .batteryLoad, [img] => do some (.batteryLoad (some (← asmImage x img)))
  | .batterySave, [] => some .batterySave
  | _, _ => none

/-- The command a line assembles to: `none` for a line that is not one of the forms of spec R79. -/
def assembleLine (x : AsmContext) (line : List Char) : Option Command :=
  match tokens [] (stripComment line) with
  | [] => none
  | t :: operands => do
    let i ← asmInstr x (← asmOp t) operands
    some ⟨i.word, i.payload⟩

end Sys2Proof.Machine
end

