-- ==== Sys2Proof/Machine/Tables.lean ====
section
/-! DEFINITION. What the spec derives from `life` and `cfg` and gives no field of its own (spec R24): the handler table
(spec R32, R54), the persistence registrations (spec R31, R103); and the block's outputs to the PPU side (spec R59); assumption log 5. -/

namespace Sys2Proof.Machine

/-- The two kinds of CPU access a handler may serve. -/
inductive AccessKind where
  | read
  | write
  deriving DecidableEq, Repr

/-- What a handler reaches, spec R54. -/
inductive HandlerTarget where
  | wram
  | rom
  | latch
  deriving DecidableEq, Repr

/-- A handler: a routine registered for an address range (spec R13). -/
structure Handler where
  kind : AccessKind
  lo : Addr
  hi : Addr
  target : HandlerTarget
  deriving DecidableEq, Repr

/-- The handlers POWER_ON installs, in its order (spec R54, R105). -/
def handlersOf (c : Cfg) : List Handler :=
  (if c.hasWram then [⟨.read, 0x6000#16, 0x7FFF#16, .wram⟩, ⟨.write, 0x6000#16, 0x7FFF#16, .wram⟩, ⟨.read, 0x8000#16, 0xFFFF#16, .rom⟩]
    else [⟨.read, 0x8000#16, 0xFFFF#16, .rom⟩])
  ++ [⟨.write, c.winLow, c.winHigh, .latch⟩]

/-- The handler table, spec R32: empty unless `Powered`. -/
def handlerTable (s : State) : List Handler :=
  match s.life, s.cfg with
  | .powered, some c => handlersOf c
  | _, _ => []

/-- A handler covers an access of its kind inside its range. -/
def covers (k : AccessKind) (a : Addr) (h : Handler) : Bool := h.kind == k && decide (h.lo ≤ a) && decide (a ≤ h.hi)

/-- The target of an access: the last entry of a table that covers it, since a later entry overrides an earlier one
(spec R54). -/
def handlerFor (t : List Handler) (k : AccessKind) (a : Addr) : Option HandlerTarget :=
  ((t.filter (covers k a)).getLast?).map Handler.target

/-- The persisted regions, spec R31. -/
inductive RegionKind where
  | latch
  | wram
  | battery
  deriving DecidableEq, Repr

/-- A persistence registration, spec R31: the battery region has no tag. -/
structure Region where
  kind : RegionKind
  size : Nat
  tag : Option String
  deriving DecidableEq, Repr

/-- The save-state regions in the platform's order (spec R31, R9). -/
def saveRegions (c : Cfg) : List Region :=
  match Config.persistOrder with
  | .latchFirst =>
    ⟨.latch, 1, some Config.latchTag⟩ :: (if c.hasWram then [⟨.wram, wramSize, some Config.wramTag⟩] else [])
  | .wramFirst =>
    (if c.hasWram then [⟨.wram, wramSize, some Config.wramTag⟩] else []) ++ [⟨.latch, 1, some Config.latchTag⟩]

/-- The registrations INIT makes, spec R103. -/
def regionsOf (c : Cfg) : List Region :=
  saveRegions c ++ (if c.batterySave then [⟨.battery, wramSize, none⟩] else [])

/-- The registrations in force, spec R31: for the session, which INIT begins and CLOSE ends. -/
def registrations (s : State) : List Region :=
  match s.life, s.cfg with
  | .unpowered, some c => regionsOf c
  | .powered, some c => regionsOf c
  | _, _ => []

/-- The outputs to the PPU side, spec R59: the CHR slots and the mirroring. -/
def ppuOutputs (s : State) : ChrSlots × Mirroring := (s.bank.chr, s.bank.mirror)

end Sys2Proof.Machine
end

