-- ==== Sys2Proof/Safety.lean ====
section
/-! DEFINITION. The terms claims are made in: the state a fault leaves (spec R202), the lifecycle transitions (spec R25),
and the invariant of a session. -/

namespace Sys2Proof.Machine

/-- `s` with a fault recorded and nothing else of the engine changed (spec R201, R202); there is no response. -/
def faultedState (code : FaultCode) (w : CmdWord) (operand : FaultOperand) (s : State) : State :=
  { s with fault := some ⟨code, w, operand⟩, response := none }

/-- The next state of a meaning, where it answers one. -/
def nextOf : Out → Option State
  | .next t => some t
  | .fault _ => none
  | .refused _ => none

/-- The transitions of `life`, spec R25, with the command that makes each. -/
inductive LifeStep : Instr → Life → Life → Prop
  | init (r : Option CfgRecord) : LifeStep (.init r) .absent .unpowered
  | powerOn : LifeStep .powerOn .unpowered .powered
  | closeUnpowered : LifeStep .close .unpowered .closed
  | closePowered : LifeStep .close .powered .closed
  | closeClosed : LifeStep .close .closed .closed

/-- A legal configuration (spec R20, R100) whose ROM listing is canonical. -/
def CfgLegal (c : Cfg) : Prop := c.winLow ≤ c.winHigh ∧ 1 ≤ c.prgBanks16 ∧ Memory.wf c.prgRom

/-- WRAM is present exactly when the configuration has it (spec R30), in canonical form and within its 8192 bytes. -/
def WramLegal (c : Cfg) (wram : Option Memory) : Prop :=
  wram.isSome = c.hasWram ∧ ∀ m, wram = some m → Memory.wf m ∧ Memory.below wramSize m

/-- The bank map a Sync of `latch` makes of the one INIT leaves (spec R170). -/
def syncedBank (c : Cfg) (latch : Byte) : BankMap := applyCalls (syncCalls c latch) (BankMap.initial c.headerMirroring)

/-- The latch and the bank map before the first Sync: both ⊥ but for the header's mirroring (spec R27, R38). -/
def Unsynced (c : Cfg) (s : State) : Prop := s.latch = none ∧ s.bank = BankMap.initial c.headerMirroring

/-- The latch holds a value and the bank map is the one derived from it (spec R29). -/
def Synced (c : Cfg) (s : State) : Prop := ∃ latch, s.latch = some latch ∧ s.bank = syncedBank c latch

/-- What the lifecycle state says of the others, spec R24 to R30 and R38. -/
def SessionLegal (s : State) : Prop :=
  match s.life, s.cfg with
  | .absent, none => s.latch = none ∧ s.wram = none ∧ ∃ m, s.bank = BankMap.initial m
  | .unpowered, some c => CfgLegal c ∧ WramLegal c s.wram ∧ Unsynced c s
  | .powered, some c => CfgLegal c ∧ WramLegal c s.wram ∧ Synced c s
  | .closed, some c => CfgLegal c ∧ s.wram = none ∧ (Unsynced c s ∨ Synced c s)
  | _, _ => False

/-- The records in a payload list their ROM canonically. -/
def PayloadLegal (p : Payload) : Prop := ∀ r, p.cfg = some r → Memory.wf r.prgRom

/-- The invariant: a legal session, and legal payloads among the commands still to run. -/
structure State.Inv (s : State) : Prop where
  session : SessionLegal s
  payloads : ∀ c ∈ s.input, PayloadLegal c.payload

end Sys2Proof.Machine
end

