-- ==== Sys2Proof/Certificates/Slice0/Obligations.lean ====
section
/-! DEFINITION. The statements for the provers. -/

open Sys2Proof Sys2Proof.Machine

/-- Each word of the spec's encoding vectors decodes to its command or is rejected for a nonzero reserved field:
0x00000000 INIT, 0x10000000 POWER_ON, 0x20800005, 0x20FFFFF3 and 0x20000000 CPU_WRITE, 0x30FFFC00 CPU_READ, 0x40000000
STATE_SAVE, 0x50000012 STATE_LOAD, 0x60000000 CLOSE, 0x70000000 BATTERY_LOAD, 0x80000000 BATTERY_SAVE, 0x90000000 and
0xF0000000 reserved opcodes, 0x11000000, 0x10000001, 0x30800001 and 0x50800012 rejected; INIT, STATE_LOAD and
BATTERY_LOAD take their operand from the payload. (spec R70, spec R71, 95_test_vectors.md 2.1.) -/
def Obligations.WordsOfTheSpecDecode : Prop :=
  ∀ (r : Option CfgRecord) (img : Option Image),
    decode 0x00000000#32 { cfg := r } = .ok (.init r) ∧
    decode 0x10000000#32 {} = .ok .powerOn ∧
    decode 0x20800005#32 {} = .ok (.write 0x8000#16 0x05#8) ∧
    decode 0x20FFFFF3#32 {} = .ok (.write 0xFFFF#16 0xF3#8) ∧
    decode 0x20000000#32 {} = .ok (.write 0x0000#16 0x00#8) ∧
    decode 0x30FFFC00#32 {} = .ok (.read 0xFFFC#16) ∧
    decode 0x40000000#32 {} = .ok .saveState ∧
    decode 0x50000012#32 { image := img } = .ok (.loadState 0x12#8 img) ∧
    decode 0x60000000#32 {} = .ok .close ∧
    decode 0x70000000#32 { image := img } = .ok (.batteryLoad img) ∧
    decode 0x80000000#32 {} = .ok .batterySave ∧
    decode 0x90000000#32 {} = .ok (.reservedOp9 0#28) ∧
    decode 0xF0000000#32 {} = .ok (.reservedOpF 0#28) ∧
    decode 0x11000000#32 {} = .error .reservedField ∧
    decode 0x10000001#32 {} = .error .reservedField ∧
    decode 0x30800001#32 {} = .error .reservedField ∧
    decode 0x50800012#32 {} = .error .reservedField

/-- For every instruction but a bank call, which has no encoding, decoding its encoding gives the instruction back with
every operand, or, for one of the six sub-operations, the CPU_WRITE or CPU_READ whose word it stands in. The encoding
is the command word with its payload, or for a variant the INIT record's variant field with tag and parameters. An
instruction has no encoding exactly when it is one of the seven bank calls. (spec R70, spec R71, spec R72, spec R74,
spec R76, spec R77, spec R78.) -/
def Obligations.DecodeInvertsEncode : Prop :=
  (∀ i : Instr, Laws.RoundTrip.Statement i) ∧
  ∀ i : Instr, encode i = .internal ↔
    ((∃ w b, i = .setPrg8 w b) ∨ (∃ w b, i = .setPrg16 w b) ∨ (∃ b, i = .setPrg32 b) ∨ (∃ w b, i = .setChr1 w b) ∨
     (∃ w b, i = .setChr4 w b) ∨ (∃ b, i = .setChr8 b) ∨ ∃ m, i = .setMirror m)

/-- If a 32-bit word with any payload decodes to an instruction, then the instruction's command word is that word: each
accepted word has one meaning and no bit of it is dropped. (spec R70, spec R71, spec R72, spec R73.) -/
def Obligations.EncodeInvertsDecode : Prop :=
  ∀ (w : CmdWord) (p : Payload) (i : Instr), decode w p = .ok i → i.word = w

/-- For a word whose OP is 0x0 to 0x8: decoding rejects it exactly when RSV is nonzero, or ADDR is nonzero and OP is not
CPU_WRITE or CPU_READ, or DATA is nonzero and OP is not CPU_WRITE or STATE_LOAD; and running a rejected word records
F_RESERVED_FIELD with that word and changes nothing else of the engine. The record's operand is nothing (assumption
log 8). (spec R72.) -/
def Obligations.UnusedFieldsMustBeZero : Prop :=
  ∀ (w : CmdWord) (p : Payload) (s : State), (opField w).toNat ≤ 8 →
    (decode w p = .error .reservedField ↔
      (rsvField w ≠ 0#4 ∨
       (addrField w ≠ 0#16 ∧ (opField w).toNat ≠ 2 ∧ (opField w).toNat ≠ 3) ∨
       (dataField w ≠ 0#8 ∧ (opField w).toNat ≠ 2 ∧ (opField w).toNat ≠ 5))) ∧
    (decode w p = .error .reservedField →
      runCommand ⟨w, p⟩ s = .next (faultedState .reservedField w .nothing s))

/-- Running any word with OP 0x9 to 0xF, in any state and with any payload, records F_ILLEGAL_OP with that word and
changes nothing else of the engine; so does each of the seven reserved-opcode instructions with its own word. The
record's operand is nothing (assumption log 8). (spec R73.) -/
def Obligations.ReservedOpcodesRaiseIllegalOp : Prop :=
  (∀ (w : CmdWord) (p : Payload) (s : State), 9 ≤ (opField w).toNat →
    runCommand ⟨w, p⟩ s = .next (faultedState .illegalOp w .nothing s)) ∧
  (∀ (x : BitVec 28) (s : State),
    exec (.reservedOp9 x) s = .next (faultedState .illegalOp (Instr.reservedOp9 x).word .nothing s) ∧
    exec (.reservedOpA x) s = .next (faultedState .illegalOp (Instr.reservedOpA x).word .nothing s) ∧
    exec (.reservedOpB x) s = .next (faultedState .illegalOp (Instr.reservedOpB x).word .nothing s) ∧
    exec (.reservedOpC x) s = .next (faultedState .illegalOp (Instr.reservedOpC x).word .nothing s) ∧
    exec (.reservedOpD x) s = .next (faultedState .illegalOp (Instr.reservedOpD x).word .nothing s) ∧
    exec (.reservedOpE x) s = .next (faultedState .illegalOp (Instr.reservedOpE x).word .nothing s) ∧
    exec (.reservedOpF x) s = .next (faultedState .illegalOp (Instr.reservedOpF x).word .nothing s))

/-- bindRecord accepts a record exactly when winLow <= winHigh, prgBanks16 >= 1, the variant tag is 0 to 3, and for tags 2
and 3 prgMode is 0 or 1, the shifts are 0..7, mirLo and mirHi are 0..3 and mirBit is none or 0..7, and for tag 3
mirBit is present; and it binds the record itself, its variant decoded. That parameters a tag does not take (all of
them for tags 0 and 1, invertSubmapper for tag 2) are not checked is the model's reading (assumption log 14). (spec
R20, spec R77, spec R78, spec R100.) -/
def Obligations.RecordBindsExactlyWhenLegal : Prop :=
  ∀ r : CfgRecord,
    ((∃ c, bindRecord r = .ok c) ↔
      (r.winLow ≤ r.winHigh ∧ 1 ≤ r.prgBanks16 ∧ r.variant.tag.toNat ≤ 3 ∧
       (2 ≤ r.variant.tag.toNat →
         r.variant.prgMode ≤ 1 ∧ r.variant.prgShift ≤ 7 ∧ r.variant.chrShift ≤ 7 ∧ r.variant.mirLo ≤ 3 ∧
         r.variant.mirHi ≤ 3 ∧ ∀ k, r.variant.mirBit = some k → k ≤ 7) ∧
       (r.variant.tag.toNat = 3 → r.variant.mirBit ≠ none))) ∧
    ∀ c, bindRecord r = .ok c → ∃ v, decodeVariant r.variant = .ok v ∧ c = { r with variant := v }

/-- When no fault is recorded and the oldest delivered command's word and payload decode to an instruction i, step is exec
of i at the state with that command taken off the input; when they are rejected, step records F_RESERVED_FIELD; and
decoding only gives well-formed instructions. The queue of delivered commands is the model's own field (assumption log
4), and the record's operand is nothing (assumption log 8). (spec R12, spec R65, spec R72.) -/
def Obligations.StepRunsTheDecodedCommand : Prop :=
  ∀ (s : State) (c : Command) (rest : List Command), s.fault = none → s.input = c :: rest →
    (∀ i, decode c.word c.payload = .ok i → i.wellFormed = true ∧ step s = exec i { s with input := rest }) ∧
    (decode c.word c.payload = .error .reservedField →
      step s = .next (faultedState .reservedField c.word .nothing { s with input := rest }))

/-- If a step from any state records a fault, then the next state is the old one with the command taken off the input, the
record written and no response: life, configuration, latch, WRAM and bank map are as before; and the record names the
command word that was run. A state whose record holds a fault has no next state. That the fault is in a next state,
the queue of delivered commands and the absent response are the model's (assumption logs 2 and 4). (spec R12, spec
R201, spec R202.) -/
def Obligations.FaultingCommandChangesOnlyTheRecord : Prop :=
  (∀ s t : State, step s = .next t → t.fault ≠ none →
    t = { s with input := s.input.tail, fault := t.fault, response := none } ∧
    ∃ c r, s.input.head? = some c ∧ t.fault = some r ∧ r.word = c.word) ∧
  ∀ (s t : State), s.fault ≠ none → step s ≠ .next t

/-- From every state that meets the invariant, with no fault recorded and a command delivered, step answers a next state
with that command taken off the input, and either a response and no fault, or a fault and no response. The response is
the model's own field, none after a fault (assumption logs 2 and 4). (spec R6, spec R12, spec R200.) -/
def Obligations.EveryCommandHasAnOutcome : Prop :=
  ∀ (s : State) (c : Command) (rest : List Command), s.Inv → s.fault = none → s.input = c :: rest →
    ∃ t, step s = .next t ∧ t.input = rest ∧
      ((t.fault = none ∧ t.response ≠ none) ∨ (t.fault ≠ none ∧ t.response = none))

/-- If a state meets the invariant and step answers a next state, that state meets it: the configuration is bound exactly
outside Absent and is legal, the latch holds a value exactly from POWER_ON, WRAM is present exactly when the
configuration has it and the session is open, is in canonical form and within 8192 bytes, and the bank map is the one
a Sync of the present latch makes of the map INIT leaves. (spec R24, spec R25, spec R27, spec R29, spec R30, spec R38,
spec R170.) -/
def Obligations.StepKeepsTheSessionInvariant : Prop :=
  ∀ s t : State, s.Inv → step s = .next t → t.Inv

/-- State.reset, the machine before any command, meets the invariant that every step keeps: Absent, nothing bound, every
slot without a value. That every slot is without a value before INIT is the model's choice (assumption log 1). (spec
R24, spec R25, spec R38.) -/
def Obligations.ResetMeetsTheSessionInvariant : Prop :=
  State.Inv State.reset

/-- For each of the nine commands and each lifecycle state in which the table names a fault, the command records that
fault with its own word and no operand, and changes nothing else of the engine. That the record has no operand is the
model's reading (assumption log 8). (spec R203.) -/
def Obligations.LifecycleCheckFaults : Prop :=
  ∀ (s : State) (r : Option CfgRecord) (a : Addr) (v : Byte) (img : Option Image),
    ((s.life = .unpowered ∨ s.life = .powered) →
      exec (.init r) s = .next (faultedState .alreadyInit 0x00000000#32 .nothing s)) ∧
    (s.life = .closed → exec (.init r) s = .next (faultedState .closed 0x00000000#32 .nothing s)) ∧
    (s.life = .absent →
      exec .powerOn s = .next (faultedState .noInstance 0x10000000#32 .nothing s) ∧
      exec (.write a v) s = .next (faultedState .noInstance (Instr.write a v).word .nothing s) ∧
      exec (.read a) s = .next (faultedState .noInstance (Instr.read a).word .nothing s) ∧
      exec .saveState s = .next (faultedState .noInstance 0x40000000#32 .nothing s) ∧
      exec (.loadState v img) s = .next (faultedState .noInstance (Instr.loadState v img).word .nothing s) ∧
      exec .close s = .next (faultedState .noInstance 0x60000000#32 .nothing s) ∧
      exec (.batteryLoad img) s = .next (faultedState .noInstance 0x70000000#32 .nothing s) ∧
      exec .batterySave s = .next (faultedState .noInstance 0x80000000#32 .nothing s)) ∧
    (s.life = .unpowered →
      exec (.write a v) s = .next (faultedState .notPowered (Instr.write a v).word .nothing s) ∧
      exec (.read a) s = .next (faultedState .notPowered (Instr.read a).word .nothing s) ∧
      exec .saveState s = .next (faultedState .notPowered 0x40000000#32 .nothing s) ∧
      exec (.loadState v img) s = .next (faultedState .notPowered (Instr.loadState v img).word .nothing s)) ∧
    (s.life = .powered →
      exec .powerOn s = .next (faultedState .alreadyPowered 0x10000000#32 .nothing s) ∧
      exec (.batteryLoad img) s = .next (faultedState .alreadyPowered 0x70000000#32 .nothing s)) ∧
    (s.life = .closed →
      exec .powerOn s = .next (faultedState .closed 0x10000000#32 .nothing s) ∧
      exec (.write a v) s = .next (faultedState .closed (Instr.write a v).word .nothing s) ∧
      exec (.read a) s = .next (faultedState .closed (Instr.read a).word .nothing s) ∧
      exec .saveState s = .next (faultedState .closed 0x40000000#32 .nothing s) ∧
      exec (.loadState v img) s = .next (faultedState .closed (Instr.loadState v img).word .nothing s) ∧
      exec (.batteryLoad img) s = .next (faultedState .closed 0x70000000#32 .nothing s) ∧
      exec .batterySave s = .next (faultedState .closed 0x80000000#32 .nothing s))

/-- Whatever instruction is executed in whatever state, a next state has the same lifecycle state, or the instruction made
one of the transitions Absent-INIT-Unpowered, Unpowered-POWER_ON-Powered, Unpowered-CLOSE-Closed,
Powered-CLOSE-Closed, Closed-CLOSE-Closed. (spec R25.) -/
def Obligations.LifeChangesOnlyByItsTransitions : Prop :=
  ∀ (i : Instr) (s t : State), exec i s = .next t → t.life = s.life ∨ LifeStep i s.life t.life

/-- From every state that meets the invariant: a step that changes the configuration starts in Absent, runs INIT's word
and binds the record that its payload carries; so no step changes it once it is bound. (spec R21.) -/
def Obligations.ConfigurationIsWrittenOnceAtInit : Prop :=
  ∀ s t : State, s.Inv → step s = .next t → t.cfg ≠ s.cfg →
    s.cfg = none ∧ s.life = .absent ∧ t.life = .unpowered ∧
    ∃ r c rest, s.input = ⟨0x00000000#32, r⟩ :: rest ∧ (∃ x, r.cfg = some x ∧ bindRecord x = .ok c) ∧ t.cfg = some c

/-- A step that changes the latch or the bank map ran an INIT, POWER_ON or STATE_LOAD word, or a CPU_WRITE word whose
address is in the latch window of the bound configuration. The queue of delivered commands is the model's own field
(assumption log 4). (spec R26, spec R36, spec R160.) -/
def Obligations.OnlySyncPointsChangeLatchAndBankMap : Prop :=
  ∀ s t : State, step s = .next t → (t.latch ≠ s.latch ∨ t.bank ≠ s.bank) →
    ∃ c rest, s.input = c :: rest ∧
      ((opField c.word).toNat = 0 ∨ (opField c.word).toNat = 1 ∨ (opField c.word).toNat = 5 ∨
       ((opField c.word).toNat = 2 ∧
        ∃ cfg, s.cfg = some cfg ∧ cfg.winLow ≤ addrField c.word ∧ addrField c.word ≤ cfg.winHigh))

/-- A step that changes the WRAM buffer ran an INIT, STATE_LOAD, CLOSE or BATTERY_LOAD word, or a CPU_WRITE word whose
address is in the WRAM window and outside the latch window of a configuration that has WRAM. The queue of delivered
commands is the model's own field (assumption log 4). (spec R30, spec R55, spec R63.) -/
def Obligations.OnlyNamedCommandsChangeWram : Prop :=
  ∀ s t : State, step s = .next t → t.wram ≠ s.wram →
    ∃ c rest, s.input = c :: rest ∧
      ((opField c.word).toNat = 0 ∨ (opField c.word).toNat = 5 ∨ (opField c.word).toNat = 6 ∨
       (opField c.word).toNat = 7 ∨
       ((opField c.word).toNat = 2 ∧ 0x6000#16 ≤ addrField c.word ∧ addrField c.word ≤ 0x7FFF#16 ∧
        ∃ cfg, s.cfg = some cfg ∧ cfg.hasWram = true ∧
          ¬ (cfg.winLow ≤ addrField c.word ∧ addrField c.word ≤ cfg.winHigh)))

/-- In Absent, INIT with a record that binds to c answers the state with cfg = c, latch without a value, WRAM all zero
when c has WRAM and none otherwise, every slot without a value, the header's mirroring, life Unpowered and the unit
response, and nothing else changed; with a record that does not bind it records F_CONFIG_INVALID with the failing
check and changes nothing else of the engine. The failing check is the first in the order of R100 (assumption log 6).
(spec R38, spec R100, spec R201.) -/
def Obligations.InitBindsOrRefuses : Prop :=
  ∀ (s : State) (r : CfgRecord), s.life = .absent →
    (∀ c, bindRecord r = .ok c →
      exec (.init (some r)) s = .next { s with
        life := .unpowered
        cfg := some c
        latch := none
        wram := if c.hasWram then some [] else none
        bank := ⟨⟨none, none, none, none⟩, ⟨none, none, none, none, none, none, none, none⟩, r.headerMirroring⟩
        response := some .unit }) ∧
    (∀ e, bindRecord r = .error e →
      exec (.init (some r)) s = .next (faultedState .configInvalid 0x00000000#32 (.check e) s))

/-- In Absent, INIT with a record whose variant tag is 4 to 15 records F_CONFIG_INVALID and changes nothing else of the
engine, and the failing check is the variant tag when the window and the ROM size are legal; and so does each of the
twelve reserved-variant rows. That a row executed on its own is INIT with its tag is the model's reading (assumption
log 13). (spec R77, spec R176.) -/
def Obligations.ReservedVariantTagsAreRefused : Prop :=
  (∀ (s : State) (r : CfgRecord), s.life = .absent → 4 ≤ r.variant.tag.toNat →
    ∃ e, exec (.init (some r)) s = .next (faultedState .configInvalid 0x00000000#32 (.check e) s) ∧
      (r.winLow ≤ r.winHigh → 1 ≤ r.prgBanks16 → e = .variantTag)) ∧
  (∀ s : State, s.life = .absent →
    exec .reservedVariant4 s = .next (faultedState .configInvalid 0x00000000#32 (.check .variantTag) s) ∧
    exec .reservedVariant5 s = .next (faultedState .configInvalid 0x00000000#32 (.check .variantTag) s) ∧
    exec .reservedVariant6 s = .next (faultedState .configInvalid 0x00000000#32 (.check .variantTag) s) ∧
    exec .reservedVariant7 s = .next (faultedState .configInvalid 0x00000000#32 (.check .variantTag) s) ∧
    exec .reservedVariant8 s = .next (faultedState .configInvalid 0x00000000#32 (.check .variantTag) s) ∧
    exec .reservedVariant9 s = .next (faultedState .configInvalid 0x00000000#32 (.check .variantTag) s) ∧
    exec .reservedVariant10 s = .next (faultedState .configInvalid 0x00000000#32 (.check .variantTag) s) ∧
    exec .reservedVariant11 s = .next (faultedState .configInvalid 0x00000000#32 (.check .variantTag) s) ∧
    exec .reservedVariant12 s = .next (faultedState .configInvalid 0x00000000#32 (.check .variantTag) s) ∧
    exec .reservedVariant13 s = .next (faultedState .configInvalid 0x00000000#32 (.check .variantTag) s) ∧
    exec .reservedVariant14 s = .next (faultedState .configInvalid 0x00000000#32 (.check .variantTag) s) ∧
    exec .reservedVariant15 s = .next (faultedState .configInvalid 0x00000000#32 (.check .variantTag) s))

/-- A configuration has WRAM exactly when needsWRAM is set, or the header is extended and the declared sizes add up to
more than 0; and it has battery save data exactly when it has WRAM and the battery flag is set. (spec R22, spec R23.) -/
def Obligations.WramIsForcedByDeclaredSizes : Prop :=
  ∀ c : Cfg,
    (c.hasWram = true ↔ (c.needsWRAM = true ∨ (c.isExtended = true ∧ c.declWram + c.declBatteryWram > 0))) ∧
    (c.batterySave = true ↔ (c.hasWram = true ∧ c.battery = true))

/-- In Absent, INIT with a record that binds to a configuration with WRAM answers a next state whose WRAM is the same
whatever the declared sizes are: read out it is exactly 8192 bytes, and every one of them is 0x00. (spec R102.) -/
def Obligations.InitAllocatesFixedZeroedWram : Prop :=
  ∀ (s : State) (r : CfgRecord) (c : Cfg), s.life = .absent → bindRecord r = .ok c → c.hasWram = true →
    ∃ t m, exec (.init (some r)) s = .next t ∧ t.wram = some m ∧ (toImage m).length = 8192 ∧
      (∀ b ∈ toImage m, b = 0x00#8) ∧
      ∀ d e c', bindRecord { r with declWram := d, declBatteryWram := e } = .ok c' → c'.hasWram = true →
        ∃ t', exec (.init (some { r with declWram := d, declBatteryWram := e })) s = .next t' ∧ t'.wram = some m

/-- In Unpowered with configuration c, POWER_ON answers the state with latch = initLatch, the bank map with the Sync of
initLatch applied, life Powered, the Sync's calls and wramExposed = hasWRAM as its response, and nothing else changed:
in particular WRAM, configuration and fault record. (spec R104, spec R106, spec R107, spec R230.) -/
def Obligations.PowerOnResetsLatchThenSyncs : Prop :=
  ∀ (s : State) (c : Cfg), s.life = .unpowered → s.cfg = some c →
    exec .powerOn s = .next { s with
      life := .powered
      latch := some c.initLatch
      bank := applyCalls (syncCalls c c.initLatch) s.bank
      response := some (.powerOn (syncCalls c c.initLatch) c.hasWram) }

/-- In Powered with configuration c and latch L, STATE_SAVE answers the snapshot of L and, when c has WRAM, of the 8192
bytes of the buffer m in offset order, else of L alone; nothing but the response changes, and the bank map is not in
the snapshot. (spec R29, spec R108.) -/
def Obligations.StateSaveAnswersTheSnapshot : Prop :=
  ∀ (s : State) (c : Cfg) (latch : Byte), s.life = .powered → s.cfg = some c → s.latch = some latch →
    (c.hasWram = false →
      exec .saveState s = .next { s with response := some (.snapshot latch none) }) ∧
    (c.hasWram = true → ∀ m, s.wram = some m →
      exec .saveState s = .next { s with
        response := some (.snapshot latch (some ((List.range 8192).map (readByte m)))) })

/-- In Powered with configuration c, STATE_LOAD of d answers the state with latch = d unmasked, the bank map with the Sync
of d applied, the Sync's calls as its response, and nothing else changed but WRAM: with WRAM present and an image of
8192 bytes, WRAM holds the image; without WRAM and without an image, WRAM is as before. (spec R109, spec R110.) -/
def Obligations.StateLoadRestoresThenSyncs : Prop :=
  ∀ (s : State) (c : Cfg) (d : Byte), s.life = .powered → s.cfg = some c →
    (c.hasWram = true → ∀ x : Image, x.length = 8192 →
      exec (.loadState d (some x)) s = .next { s with
        latch := some d
        wram := some (ofImage x)
        bank := applyCalls (syncCalls c d) s.bank
        response := some (.calls (syncCalls c d)) }) ∧
    (c.hasWram = false →
      exec (.loadState d none) s = .next { s with
        latch := some d
        bank := applyCalls (syncCalls c d) s.bank
        response := some (.calls (syncCalls c d)) }) ∧
    (∀ (x : Image) (i : Nat), readByte (ofImage x) i = x.getD i 0x00#8)

/-- Saving the state of a powered instance with WRAM and loading the snapshot into any powered instance of the same
configuration gives that instance the saved latch and exactly the saved WRAM, and saving it again answers the same
snapshot. (spec R108, spec R109, 95_test_vectors.md S7.) -/
def Obligations.SnapshotRoundTripsThroughAFreshInstance : Prop :=
  ∀ (s s' : State) (c : Cfg) (latch : Byte) (m : Memory),
    s.life = .powered → s.cfg = some c → s.latch = some latch → s.wram = some m →
    c.hasWram = true → Memory.wf m → Memory.below 8192 m → s'.life = .powered → s'.cfg = some c →
    ∃ x t, exec .saveState s = .next { s with response := some (.snapshot latch (some x)) } ∧
      exec (.loadState latch (some x)) s' = .next t ∧ t.latch = some latch ∧ t.wram = some m ∧
      exec .saveState t = .next { t with response := some (.snapshot latch (some x)) }

/-- CLOSE in Unpowered, Powered or Closed answers the state with WRAM released, life Closed and the unit response, and
nothing else changed; a second CLOSE answers the same state. (spec R112.) -/
def Obligations.CloseReleasesWramAndIsIdempotent : Prop :=
  ∀ s : State, s.life ≠ .absent →
    exec .close s = .next { s with life := .closed, wram := none, response := some .unit } ∧
    exec .close { s with life := .closed, wram := none, response := some .unit } =
      .next { s with life := .closed, wram := none, response := some .unit }

/-- In Unpowered with a configuration that has battery save data, BATTERY_LOAD of an image of 8192 bytes answers the state
with WRAM holding the image and the unit response; the latch, the bank map and everything else are as before. (spec
R113.) -/
def Obligations.BatteryLoadFillsWram : Prop :=
  ∀ (s : State) (c : Cfg) (x : Image), s.life = .unpowered → s.cfg = some c → c.batterySave = true → x.length = 8192 →
    exec (.batteryLoad (some x)) s = .next { s with wram := some (ofImage x), response := some .unit }

/-- In Unpowered or Powered with a configuration that has battery save data and WRAM buffer m, BATTERY_SAVE answers the
8192 bytes of m in offset order, and nothing but the response changes. (spec R60, spec R114.) -/
def Obligations.BatterySaveAnswersTheImage : Prop :=
  ∀ (s : State) (c : Cfg) (m : Memory), (s.life = .unpowered ∨ s.life = .powered) → s.cfg = some c →
    c.batterySave = true → s.wram = some m →
    exec .batterySave s = .next { s with response := some (.image ((List.range 8192).map (readByte m))) }

/-- In Unpowered with battery save data, after BATTERY_LOAD of an 8192-byte image, BATTERY_SAVE answers exactly that
image, both before and after POWER_ON: POWER_ON does not clear WRAM. (spec R106, spec R113, spec R114.) -/
def Obligations.BatteryImageRoundTrips : Prop :=
  ∀ (s : State) (c : Cfg) (x : Image), s.life = .unpowered → s.cfg = some c → c.batterySave = true → x.length = 8192 →
    ∃ t u, exec (.batteryLoad (some x)) s = .next t ∧
      exec .batterySave t = .next { t with response := some (.image x) } ∧
      exec .powerOn t = .next u ∧ exec .batterySave u = .next { u with response := some (.image x) }

/-- In Powered, STATE_LOAD without an image or with one that is not 8192 bytes where there is WRAM, and with an image
where there is none, records F_SNAPSHOT_SHAPE with the payload's length; in Unpowered, BATTERY_LOAD without battery
save data records F_NO_BATTERY whatever the image, and with it and no image or one not 8192 bytes F_SNAPSHOT_SHAPE;
BATTERY_SAVE without battery save data records F_NO_BATTERY. Nothing else of the engine changes. The length of a
missing image, and BATTERY_LOAD without one, are the model's choice (assumption log 6); that F_NO_BATTERY has no
operand is the model's reading (assumption log 8). (spec R74, spec R109, spec R113, spec R114, spec R204.) -/
def Obligations.ImagesOfWrongShapeAreRefused : Prop :=
  ∀ (s : State) (c : Cfg) (d : Byte) (img : Option Image), s.cfg = some c →
    (s.life = .powered →
      ((c.hasWram = true ∧ ∀ x, img = some x → x.length ≠ 8192) ∨ (c.hasWram = false ∧ img ≠ none)) →
      exec (.loadState d img) s =
        .next (faultedState .snapshotShape (Instr.loadState d img).word (.payloadLength (img.map List.length)) s)) ∧
    (s.life = .unpowered → c.batterySave = false →
      exec (.batteryLoad img) s = .next (faultedState .noBattery 0x70000000#32 .nothing s)) ∧
    (s.life = .unpowered → c.batterySave = true → (∀ x, img = some x → x.length ≠ 8192) →
      exec (.batteryLoad img) s =
        .next (faultedState .snapshotShape 0x70000000#32 (.payloadLength (img.map List.length)) s)) ∧
    ((s.life = .unpowered ∨ s.life = .powered) → c.batterySave = false →
      exec .batterySave s = .next (faultedState .noBattery 0x80000000#32 .nothing s))

/-- In Powered with configuration c, CPU_WRITE at an address in the latch window is LATCH_WRITE, also where WRAM lies
there; at an address of the WRAM window outside the latch window, with WRAM present, it is WRAM_WRITE; at any other
address it is IGNORED_WRITE. (spec R55.) -/
def Obligations.WritesAreDispatchedByAddress : Prop :=
  ∀ (s : State) (c : Cfg) (a : Addr) (v : Byte), s.life = .powered → s.cfg = some c →
    ((c.winLow ≤ a ∧ a ≤ c.winHigh) → exec (.write a v) s = exec (.latchWrite a v) s) ∧
    (¬ (c.winLow ≤ a ∧ a ≤ c.winHigh) → c.hasWram = true → 0x6000#16 ≤ a → a ≤ 0x7FFF#16 →
      exec (.write a v) s = exec (.wramWrite a v) s) ∧
    (¬ (c.winLow ≤ a ∧ a ≤ c.winHigh) → ¬ (c.hasWram = true ∧ 0x6000#16 ≤ a ∧ a ≤ 0x7FFF#16) →
      exec (.write a v) s = exec (.ignoredWrite a v) s)

/-- In Powered with configuration c, CPU_READ in the WRAM window with WRAM present is WRAM_READ, also inside the latch
window; in the ROM window it is ROM_READ; at any other address it is UNHANDLED_READ. (spec R56.) -/
def Obligations.ReadsAreDispatchedByAddress : Prop :=
  ∀ (s : State) (c : Cfg) (a : Addr), s.life = .powered → s.cfg = some c →
    (c.hasWram = true → 0x6000#16 ≤ a → a ≤ 0x7FFF#16 → exec (.read a) s = exec (.wramRead a) s) ∧
    (0x8000#16 ≤ a → exec (.read a) s = exec (.romRead a) s) ∧
    (¬ 0x8000#16 ≤ a → ¬ (c.hasWram = true ∧ 0x6000#16 ≤ a ∧ a ≤ 0x7FFF#16) →
      exec (.read a) s = exec (.unhandledRead a) s)

/-- In Powered with configuration c and an address in the latch window, LATCH_WRITE and the CPU_WRITE that is one answer
the state with the latch holding the effective value, the bank map with its Sync applied, handled = true and the
Sync's calls as response, and nothing else changed, WRAM included. The effective value is v without bus conflicts, and
with them, in the ROM window, v AND the ROM byte b under the bank map before the write. (spec R131, spec R132, spec
R140.) -/
def Obligations.LatchWriteStoresTheEffectiveValue : Prop :=
  ∀ (s : State) (c : Cfg) (a : Addr) (v e : Byte), s.life = .powered → s.cfg = some c → c.winLow ≤ a → a ≤ c.winHigh →
    ((c.busConflict = false ∧ e = v) ∨
     (c.busConflict = true ∧ 0x8000#16 ≤ a ∧ ∃ b, romByte c s.bank a = some b ∧ e = v &&& b)) →
    exec (.latchWrite a v) s = .next { s with
      latch := some e
      bank := applyCalls (syncCalls c e) s.bank
      response := some (.write true (syncCalls c e)) } ∧
    exec (.write a v) s = .next { s with
      latch := some e
      bank := applyCalls (syncCalls c e) s.bank
      response := some (.write true (syncCalls c e)) }

/-- In Powered with bus conflicts on, a write at an address of the latch window outside the ROM window records
F_CONFLICT_UNMAPPED with the address and changes nothing else of the engine; when the latch window lies wholly inside
the ROM window, no write at any address, in any lifecycle state, records that fault, neither CPU_WRITE nor
LATCH_WRITE. (spec R133.) -/
def Obligations.ConflictedWriteOutsideRomFaults : Prop :=
  ∀ (s : State) (c : Cfg) (v : Byte), s.cfg = some c →
    (s.life = .powered → c.busConflict = true → ∀ a, c.winLow ≤ a → a ≤ c.winHigh → ¬ 0x8000#16 ≤ a →
      exec (.write a v) s = .next (faultedState .conflictUnmapped (Instr.write a v).word (.addr a) s) ∧
      exec (.latchWrite a v) s = .next (faultedState .conflictUnmapped (Instr.latchWrite a v).word (.addr a) s)) ∧
    (0x8000#16 ≤ c.winLow → s.fault = none → ∀ a t r,
      (exec (.write a v) s = .next t ∨ exec (.latchWrite a v) s = .next t) → t.fault = some r →
      r.code ≠ .conflictUnmapped)

/-- In Powered with WRAM present, at an address of the WRAM window outside the latch window, WRAM_WRITE and the CPU_WRITE
that is one answer the state with a WRAM in which offset a - 0x6000 reads v and every other offset reads as before,
handled = true and no calls as response, and nothing else changed: no masking, latch and bank map as before. (spec
R51, spec R63, spec R134.) -/
def Obligations.WramWriteStoresOneByte : Prop :=
  ∀ (s : State) (c : Cfg) (a : Addr) (v : Byte) (m : Memory), s.life = .powered → s.cfg = some c → c.hasWram = true →
    ¬ (c.winLow ≤ a ∧ a ≤ c.winHigh) → 0x6000#16 ≤ a → a ≤ 0x7FFF#16 → s.wram = some m → Memory.wf m →
    ∃ m', exec (.wramWrite a v) s = .next { s with wram := some m', response := some (.write true []) } ∧
      exec (.write a v) s = .next { s with wram := some m', response := some (.write true []) } ∧
      readByte m' (a.toNat - 0x6000) = v ∧ (∀ o, o ≠ a.toNat - 0x6000 → readByte m' o = readByte m o)

/-- In Powered, at an address outside the latch window and not in the WRAM window of a configuration with WRAM,
IGNORED_WRITE and the CPU_WRITE that is one answer the same state with handled = false and no calls as response; so
PRG ROM, latch, bank map and WRAM are as before. (spec R63, spec R64, spec R135.) -/
def Obligations.IgnoredWriteChangesNothing : Prop :=
  ∀ (s : State) (c : Cfg) (a : Addr) (v : Byte), s.life = .powered → s.cfg = some c →
    ¬ (c.winLow ≤ a ∧ a ≤ c.winHigh) → ¬ (c.hasWram = true ∧ 0x6000#16 ≤ a ∧ a ≤ 0x7FFF#16) →
    exec (.ignoredWrite a v) s = .next { s with response := some (.write false []) } ∧
    exec (.write a v) s = .next { s with response := some (.write false []) }

/-- In Powered with WRAM buffer m present and an address in the WRAM window, in the latch window or not, WRAM_READ and the
CPU_READ that is one answer the byte at offset a - 0x6000, and nothing but the response changes. (spec R51, spec
R137.) -/
def Obligations.WramReadAnswersTheByte : Prop :=
  ∀ (s : State) (c : Cfg) (a : Addr) (m : Memory), s.life = .powered → s.cfg = some c → c.hasWram = true →
    0x6000#16 ≤ a → a ≤ 0x7FFF#16 → s.wram = some m →
    exec (.wramRead a) s = .next { s with response := some (.byte (some (readByte m (a.toNat - 0x6000)))) } ∧
    exec (.read a) s = .next { s with response := some (.byte (some (readByte m (a.toNat - 0x6000)))) }

/-- In Powered, at an address of the ROM window whose slot (a - 0x8000) / 8192 holds bank b, ROM_READ and the CPU_READ
that is one answer the PRG ROM byte at offset (b mod 2 prgBanks16) * 8192 + a mod 8192, and nothing but the response
changes. The modulo reduction is the spec's own guess for a ROM whose size is not a power of two. (spec R52, spec R57,
spec R138.) -/
def Obligations.RomReadAnswersTheMappedByte : Prop :=
  ∀ (s : State) (c : Cfg) (a : Addr) (b : Nat), s.life = .powered → s.cfg = some c → 0x8000#16 ≤ a →
    prgGet s.bank.prg ((a.toNat - 0x8000) / 8192) = some b →
    exec (.romRead a) s = .next { s with
      response := some (.byte (some (readByte c.prgRom (b % (2 * c.prgBanks16) * 8192 + a.toNat % 8192)))) } ∧
    exec (.read a) s = .next { s with
      response := some (.byte (some (readByte c.prgRom (b % (2 * c.prgBanks16) * 8192 + a.toNat % 8192)))) }

/-- In Powered, at an address below 0x8000 and not in the WRAM window of a configuration with WRAM, UNHANDLED_READ and the
CPU_READ that is one answer none, whatever the latch window is, and nothing but the response changes; the bus value is
the host's. (spec R139.) -/
def Obligations.UnhandledReadAnswersNone : Prop :=
  ∀ (s : State) (c : Cfg) (a : Addr), s.life = .powered → s.cfg = some c →
    ¬ 0x8000#16 ≤ a → ¬ (c.hasWram = true ∧ 0x6000#16 ≤ a ∧ a ≤ 0x7FFF#16) →
    exec (.unhandledRead a) s = .next { s with response := some (.byte none) } ∧
    exec (.read a) s = .next { s with response := some (.byte none) }

/-- In a powered state that meets the invariant, a CPU read at any address answers a next state in which only the response
differs, and reading the same address in that state gives the same response and state. (spec R63.) -/
def Obligations.ReadsHaveNoSideEffect : Prop :=
  ∀ (s : State) (a : Addr), s.Inv → s.life = .powered →
    ∃ b, exec (.read a) s = .next { s with response := some (.byte b) } ∧
      exec (.read a) { s with response := some (.byte b) } = .next { s with response := some (.byte b) }

/-- In Powered, each of the six sub-operations at an address that the classification gives to another sub-operation is
refused under a name of its own. The refusal is the model's choice (assumption log 11): no command word decodes to a
sub-operation there. (20_memory.md R55 and R56, notes/assumptions/11.) -/
def Obligations.SubOperationsStopOutsideTheirAddresses : Prop :=
  ∀ (s : State) (c : Cfg) (a : Addr) (v : Byte), s.life = .powered → s.cfg = some c →
    (classifyWrite c a ≠ .latch → exec (.latchWrite a v) s = .refused .addressOfAnotherOperation) ∧
    (classifyWrite c a ≠ .wram → exec (.wramWrite a v) s = .refused .addressOfAnotherOperation) ∧
    (classifyWrite c a ≠ .ignored → exec (.ignoredWrite a v) s = .refused .addressOfAnotherOperation) ∧
    (classifyRead c a ≠ .wram → exec (.wramRead a) s = .refused .addressOfAnotherOperation) ∧
    (classifyRead c a ≠ .rom → exec (.romRead a) s = .refused .addressOfAnotherOperation) ∧
    (classifyRead c a ≠ .unhandled → exec (.unhandledRead a) s = .refused .addressOfAnotherOperation)

/-- In Powered, the last handler of the installed table that covers a CPU write is the latch handler, the WRAM handler or
none exactly as the write is classified, and likewise for a read with WRAM, ROM or none; in every other lifecycle
state the table is empty. (spec R32, spec R54, spec R55, spec R56, spec R105.) -/
def Obligations.HandlerTableGivesTheClassification : Prop :=
  (∀ (s : State) (c : Cfg) (a : Addr), s.life = .powered → s.cfg = some c →
    handlerFor (handlerTable s) .write a =
      (match classifyWrite c a with
        | .latch => some .latch
        | .wram => some .wram
        | .ignored => none) ∧
    handlerFor (handlerTable s) .read a =
      (match classifyRead c a with
        | .wram => some .wram
        | .rom => some .rom
        | .unhandled => none)) ∧
  ∀ s : State, s.life ≠ .powered → handlerTable s = []

/-- In Unpowered and Powered with configuration c, the registrations hold the 1-byte latch region, the 8192-byte WRAM
region exactly when c has WRAM, and the 8192-byte battery region exactly when c has battery save data, each with the
platform's tag; in Absent and Closed there are none. That none is in force in Closed is the model's reading
(assumption log 5). (spec R31, spec R103.) -/
def Obligations.RegistrationsFollowTheConfiguration : Prop :=
  (∀ (s : State) (c : Cfg), (s.life = .unpowered ∨ s.life = .powered) → s.cfg = some c →
    (∀ g, g ∈ registrations s ↔
      (g = ⟨.latch, 1, some Config.latchTag⟩ ∨
       (c.hasWram = true ∧ g = ⟨.wram, 8192, some Config.wramTag⟩) ∨
       (c.batterySave = true ∧ g = ⟨.battery, 8192, none⟩)))) ∧
  ∀ s : State, (s.life = .absent ∨ s.life = .closed) → registrations s = []

/-- In Powered, let e be the effective value of a write of v in the latch window. The write, and a STATE_LOAD of e with
the current WRAM image, both answer a next state; the two have the same bank map and latch, and both responses carry
the same calls. (spec R177.) -/
def Obligations.RestoreMatchesTheLiveWrite : Prop :=
  ∀ (s : State) (c : Cfg) (a : Addr) (v e : Byte) (m : Memory), s.life = .powered → s.cfg = some c →
    c.winLow ≤ a → a ≤ c.winHigh → s.wram = (if c.hasWram then some m else none) →
    ((c.busConflict = false ∧ e = v) ∨
     (c.busConflict = true ∧ 0x8000#16 ≤ a ∧ ∃ b, romByte c s.bank a = some b ∧ e = v &&& b)) →
    ∃ s1 s2 calls, exec (.write a v) s = .next s1 ∧
      exec (.loadState e (if c.hasWram then some (toImage m) else none)) s = .next s2 ∧
      s1.bank = s2.bank ∧ s1.latch = s2.latch ∧
      s1.response = some (.write true calls) ∧ s2.response = some (.calls calls)

/-- For every configuration and latch value, the PRG and CHR slots after a Sync are the same whatever the bank map before
it, the whole maps agree where the mirroring before did, every slot holds a bank number, and syncing again with the
same latch leaves the bank map as it is. (spec R58, spec R162, spec R170.) -/
def Obligations.SyncKeepsNoHistory : Prop :=
  ∀ (c : Cfg) (latch : Byte) (m m' : BankMap),
    (applyCalls (syncCalls c latch) m).prg = (applyCalls (syncCalls c latch) m').prg ∧
    (applyCalls (syncCalls c latch) m).chr = (applyCalls (syncCalls c latch) m').chr ∧
    (m.mirror = m'.mirror → applyCalls (syncCalls c latch) m = applyCalls (syncCalls c latch) m') ∧
    (∀ i, i < 4 → ∃ b, prgGet (applyCalls (syncCalls c latch) m).prg i = some b) ∧
    (∀ j, j < 8 → ∃ b, chrGet (applyCalls (syncCalls c latch) m).chr j = some b) ∧
    applyCalls (syncCalls c latch) (applyCalls (syncCalls c latch) m) = applyCalls (syncCalls c latch) m

/-- In every state with configuration c and a latch value L, executing the opcode-table row of the variant c binds answers
the bank map that a Sync of L makes of the present one, with the same calls. What a row executed on its own does is
the model's choice (assumption log 9). (spec R161.) -/
def Obligations.VariantRowsAreWhatSyncRuns : Prop :=
  ∀ (s : State) (c : Cfg) (latch : Byte), s.cfg = some c → s.latch = some latch →
    exec c.variant.toInstr s = .next { s with
      bank := applyCalls (syncCalls c latch) s.bank
      response := some (.calls (syncCalls c latch)) }

/-- With configuration c of n = prgBanks16 and latch L, and B the low nibble of L, PRG16_LOW_SWITCH answers the calls
SET_PRG16(0x8000, B), SET_PRG16(0xC000, n - 1), SET_CHR8(0), and a bank map with prg = [2B, 2B+1, 2(n-1), 2(n-1)+1]
and chr = [0..7]; the mirroring and everything else are as before. The row is executed on its own, whichever variant c
binds (assumption log 9). (spec R164, spec R168, spec R172, spec R178.) -/
def Obligations.Prg16LowSwitchMapsTheLowNibble : Prop :=
  ∀ (s : State) (c : Cfg) (latch : Byte), s.cfg = some c → s.latch = some latch →
    exec .prg16LowSwitch s = .next { s with
      bank := {
        prg := ⟨some (2 * (latch.toNat % 16)), some (2 * (latch.toNat % 16) + 1), some (2 * (c.prgBanks16 - 1)),
          some (2 * (c.prgBanks16 - 1) + 1)⟩
        chr := ⟨some 0, some 1, some 2, some 3, some 4, some 5, some 6, some 7⟩
        mirror := s.bank.mirror }
      response := some (.calls [.setPrg16 0x8000#16 (latch.toNat % 16), .setPrg16 0xC000#16 (c.prgBanks16 - 1),
        .setChr8 0]) }

/-- With a configuration and latch L, CHR8_SWITCH answers the calls SET_PRG32(0), SET_CHR8(L), and a bank map with prg =
[0, 1, 2, 3] and chr[k] = 8L + k; the mirroring and everything else are as before. The row is executed on its own,
whichever variant the configuration binds (assumption log 9). (spec R165, spec R168, spec R173.) -/
def Obligations.Chr8SwitchMapsTheWholeLatch : Prop :=
  ∀ (s : State) (c : Cfg) (latch : Byte), s.cfg = some c → s.latch = some latch →
    exec .chr8Switch s = .next { s with
      bank := {
        prg := ⟨some 0, some 1, some 2, some 3⟩
        chr := ⟨some (8 * latch.toNat), some (8 * latch.toNat + 1), some (8 * latch.toNat + 2),
          some (8 * latch.toNat + 3), some (8 * latch.toNat + 4), some (8 * latch.toNat + 5),
          some (8 * latch.toNat + 6), some (8 * latch.toNat + 7)⟩
        mirror := s.bank.mirror }
      response := some (.calls [.setPrg32 0, .setChr8 latch.toNat]) }

/-- With configuration c, latch L and parameters p, let pb and cb be L shifted right by the PRG and CHR shift and masked.
COMBINED answers the PRG calls of its mode, SET_PRG16(0x8000, pb) and SET_PRG16(0xC000, n - 1) or SET_PRG32(pb), then
SET_CHR8(cb), then, if a mirroring bit k is given, SET_MIRROR of mirHi where bit k of L is 1 and of mirLo where it is
0; the PRG slots, the CHR slots and the mirroring follow, a mirroring without a bit is as before, and nothing else
changes. The row is executed on its own, whichever variant c binds (assumption log 9). (spec R164, spec R165, spec
R168, spec R171, spec R174.) -/
def Obligations.CombinedMapsItsBitGroups : Prop :=
  ∀ (s : State) (c : Cfg) (latch : Byte) (p : CombinedParams), s.cfg = some c → s.latch = some latch →
    ∃ pb cb : Nat,
      pb = ((latch >>> p.layout.prgShift.val) &&& p.layout.prgMask).toNat ∧
      cb = ((latch >>> p.layout.chrShift.val) &&& p.layout.chrMask).toNat ∧
      exec (.combined p) s = .next { s with
        bank := {
          prg := (match p.layout.prgMode with
            | .p16FixedLast => ⟨some (2 * pb), some (2 * pb + 1), some (2 * (c.prgBanks16 - 1)),
                some (2 * (c.prgBanks16 - 1) + 1)⟩
            | .p32 => ⟨some (4 * pb), some (4 * pb + 1), some (4 * pb + 2), some (4 * pb + 3)⟩)
          chr := ⟨some (8 * cb), some (8 * cb + 1), some (8 * cb + 2), some (8 * cb + 3), some (8 * cb + 4),
            some (8 * cb + 5), some (8 * cb + 6), some (8 * cb + 7)⟩
          mirror := (match p.mirBit with
            | none => s.bank.mirror
            | some k => if latch.getLsbD k.val then p.mirHi else p.mirLo) }
        response := some (.calls
          ((match p.layout.prgMode with
            | .p16FixedLast => [.setPrg16 0x8000#16 pb, .setPrg16 0xC000#16 (c.prgBanks16 - 1)]
            | .p32 => [.setPrg32 pb]) ++ [.setChr8 cb] ++
           (match p.mirBit with
            | none => []
            | some k => [.setMirror (if latch.getLsbD k.val then p.mirHi else p.mirLo)]))) }

/-- With a configuration and a latch value, SUBMAPPER_POLARITY answers what COMBINED with the same parameters and
mirroring bit answers when the submapper differs from invertSubmapper, and what COMBINED with mirLo and mirHi
exchanged answers when it is invertSubmapper; and it completes. The rows are executed on their own (assumption log 9).
(spec R175.) -/
def Obligations.SubmapperPolarityFlipsTheMirroringBit : Prop :=
  ∀ (s : State) (c : Cfg) (latch : Byte) (p : PolarityParams), s.cfg = some c → s.latch = some latch →
    (∃ t, exec (.submapperPolarity p) s = .next t) ∧
    (c.submapper ≠ p.invertSubmapper →
      exec (.submapperPolarity p) s = exec (.combined ⟨p.layout, some p.mirBit, p.mirLo, p.mirHi⟩) s) ∧
    (c.submapper = p.invertSubmapper →
      exec (.submapperPolarity p) s = exec (.combined ⟨p.layout, some p.mirBit, p.mirHi, p.mirLo⟩) s)

/-- For every latch, submapper and ROM size, PRG16_LOW_SWITCH decodes as COMBINED with (P16_FIXED_LAST, 0, 0x0F, 0, 0x00,
none), and CHR8_SWITCH as COMBINED with (P32, 0, 0x00, 0, 0xFF, none), whatever the unused mirrorings. (spec R174.) -/
def Obligations.SimpleVariantsAreCombinedOnes : Prop :=
  ∀ (latch : Byte) (sub n : Nat) (lo hi : Mirroring),
    decodeCalls .prg16LowSwitch latch sub n =
      decodeCalls (.combined ⟨⟨.p16FixedLast, 0, 0x0F#8, 0, 0x00#8⟩, none, lo, hi⟩) latch sub n ∧
    decodeCalls .chr8Switch latch sub n =
      decodeCalls (.combined ⟨⟨.p32, 0, 0x00#8, 0, 0xFF#8⟩, none, lo, hi⟩) latch sub n

/-- In every state, SET_PRG8 at each of its four windows writes b to that slot, SET_PRG16 at each of its two windows
writes 2b and 2b+1 to its two slots, SET_PRG32 writes 4b to 4b+3 to the four slots, and nothing else changes; at a
window not named, SET_PRG8 and SET_PRG16 are refused (the model's choice, assumption log 11). That a call executed on
its own leaves the response is the model's choice (assumption log 10). (spec R163, spec R164, spec R165.) -/
def Obligations.PrgBankCallsWriteTheirSlots : Prop :=
  ∀ (s : State) (b : Nat),
    exec (.setPrg8 0x8000#16 b) s = .next { s with bank := { s.bank with prg := { s.bank.prg with s0 := some b } } } ∧
    exec (.setPrg8 0xA000#16 b) s = .next { s with bank := { s.bank with prg := { s.bank.prg with s1 := some b } } } ∧
    exec (.setPrg8 0xC000#16 b) s = .next { s with bank := { s.bank with prg := { s.bank.prg with s2 := some b } } } ∧
    exec (.setPrg8 0xE000#16 b) s = .next { s with bank := { s.bank with prg := { s.bank.prg with s3 := some b } } } ∧
    exec (.setPrg16 0x8000#16 b) s = .next { s with
      bank := { s.bank with prg := { s.bank.prg with s0 := some (2 * b), s1 := some (2 * b + 1) } } } ∧
    exec (.setPrg16 0xC000#16 b) s = .next { s with
      bank := { s.bank with prg := { s.bank.prg with s2 := some (2 * b), s3 := some (2 * b + 1) } } } ∧
    exec (.setPrg32 b) s = .next { s with
      bank := { s.bank with prg := ⟨some (4 * b), some (4 * b + 1), some (4 * b + 2), some (4 * b + 3)⟩ } } ∧
    (∀ w, w ≠ 0x8000#16 → w ≠ 0xA000#16 → w ≠ 0xC000#16 → w ≠ 0xE000#16 →
      exec (.setPrg8 w b) s = .refused .windowNotNamed) ∧
    (∀ w, w ≠ 0x8000#16 → w ≠ 0xC000#16 → exec (.setPrg16 w b) s = .refused .windowNotNamed)

/-- In every state, SET_CHR1 at window 0x400 * j for j in 0..7 writes b to CHR slot j, SET_CHR4 at 0x0000 and 0x1000
writes 4b to 4b+3 to its four slots, SET_CHR8 writes 8b to 8b+7, every other slot and everything else is as before; at
a window not named, SET_CHR1 and SET_CHR4 are refused (the model's choice, assumption log 11). That a call executed on
its own leaves the response is the model's choice (assumption log 10). (spec R166, spec R167, spec R168.) -/
def Obligations.ChrBankCallsWriteTheirSlots : Prop :=
  ∀ (s : State) (b : Nat),
    (∀ j, j < 8 → ∃ chr, exec (.setChr1 (BitVec.ofNat 16 (0x400 * j)) b) s =
        .next { s with bank := { s.bank with chr := chr } } ∧
      chrGet chr j = some b ∧ ∀ k, k ≠ j → chrGet chr k = chrGet s.bank.chr k) ∧
    exec (.setChr4 0x0000#16 b) s = .next { s with bank := { s.bank with chr := { s.bank.chr with
      s0 := some (4 * b), s1 := some (4 * b + 1), s2 := some (4 * b + 2), s3 := some (4 * b + 3) } } } ∧
    exec (.setChr4 0x1000#16 b) s = .next { s with bank := { s.bank with chr := { s.bank.chr with
      s4 := some (4 * b), s5 := some (4 * b + 1), s6 := some (4 * b + 2), s7 := some (4 * b + 3) } } } ∧
    exec (.setChr8 b) s = .next { s with bank := { s.bank with chr := ⟨some (8 * b), some (8 * b + 1),
      some (8 * b + 2), some (8 * b + 3), some (8 * b + 4), some (8 * b + 5), some (8 * b + 6), some (8 * b + 7)⟩ } } ∧
    (∀ w, (∀ j, j < 8 → w ≠ BitVec.ofNat 16 (0x400 * j)) → exec (.setChr1 w b) s = .refused .windowNotNamed) ∧
    (∀ w, w ≠ 0x0000#16 → w ≠ 0x1000#16 → exec (.setChr4 w b) s = .refused .windowNotNamed)

/-- In every state SET_MIRROR of a mode answers the state with that mirroring, and nothing else changed. That a call
executed on its own leaves the response is the model's choice (assumption log 10). (spec R169.) -/
def Obligations.SetMirrorWritesTheMirroring : Prop :=
  ∀ (s : State) (m : Mirroring), exec (.setMirror m) s = .next { s with bank := { s.bank with mirror := m } }

/-- In every state that meets the invariant with configuration c bound, if c's variant is PRG16_LOW_SWITCH, CHR8_SWITCH or
COMBINED without a mirroring bit, then the mirroring is the header's. (spec R169, spec R170.) -/
def Obligations.MirroringStaysAtTheHeaderWithoutAMirrorCall : Prop :=
  ∀ (s : State) (c : Cfg), s.Inv → s.cfg = some c →
    (c.variant = .prg16LowSwitch ∨ c.variant = .chr8Switch ∨ ∃ p, c.variant = .combined p ∧ p.mirBit = none) →
    s.bank.mirror = c.headerMirroring

/-- For every configuration and latch value, every bank call that the Sync issues is well-formed, so that applying it is
the bank call of its rule. (spec R163, spec R164, spec R165, spec R168, spec R169.) -/
def Obligations.SyncIssuesCallsAtNamedWindows : Prop :=
  ∀ (c : Cfg) (latch : Byte) (x : BankCall), x ∈ syncCalls c latch → x.wellFormed = true

/-- In every powered state that meets the invariant, each of the four PRG slots holds a bank number, and with
configuration c the ROM byte at every address of the ROM window is defined. (spec R58.) -/
def Obligations.PoweredSlotsHoldBankNumbers : Prop :=
  ∀ (s : State) (c : Cfg), s.Inv → s.life = .powered → s.cfg = some c →
    (∀ i, i < 4 → ∃ b, prgGet s.bank.prg i = some b) ∧
    (∀ a : Addr, 0x8000#16 ≤ a → ∃ b, romByte c s.bank a = some b)

/-- After a Sync of any latch value, PRG slot 3 holds 2 (n - 1) + 1 under PRG16_LOW_SWITCH and under COMBINED and
SUBMAPPER_POLARITY in mode P16_FIXED_LAST, whatever the latch; it holds 3 under CHR8_SWITCH, and 4 pb + 3 under
COMBINED and SUBMAPPER_POLARITY in mode P32; and addresses 0xFFFC and 0xFFFD are in slot 3. (spec R178, spec R231.) -/
def Obligations.ResetVectorSlotFollowsTheVariant : Prop :=
  prgSlot 0xFFFC#16 = 3 ∧ prgSlot 0xFFFD#16 = 3 ∧
  ∀ (c : Cfg) (latch : Byte) (m : BankMap),
    (c.variant = .prg16LowSwitch →
      (applyCalls (syncCalls c latch) m).prg.s3 = some (2 * (c.prgBanks16 - 1) + 1)) ∧
    (c.variant = .chr8Switch → (applyCalls (syncCalls c latch) m).prg.s3 = some 3) ∧
    (∀ l, ((∃ p, c.variant = .combined p ∧ p.layout = l) ∨ ∃ p, c.variant = .submapperPolarity p ∧ p.layout = l) →
      (l.prgMode = .p16FixedLast →
        (applyCalls (syncCalls c latch) m).prg.s3 = some (2 * (c.prgBanks16 - 1) + 1)) ∧
      (l.prgMode = .p32 →
        (applyCalls (syncCalls c latch) m).prg.s3 = some (4 * ((latch >>> l.prgShift.val) &&& l.prgMask).toNat + 3)))

/-- In Powered with bus conflicts on, a write of v at an address of the latch window in the ROM window, whose ROM byte
under the present bank map is b, completes, and the latch then holds v exactly when b AND v is v; otherwise it holds v
AND b, which is another value; a ROM byte of 0xFF is always safe. (spec R132, spec R234.) -/
def Obligations.BusConflictHazard : Prop :=
  ∀ (s : State) (c : Cfg) (a : Addr) (v b : Byte), s.life = .powered → s.cfg = some c → c.busConflict = true →
    c.winLow ≤ a → a ≤ c.winHigh → 0x8000#16 ≤ a → romByte c s.bank a = some b →
    ∃ t, exec (.write a v) s = .next t ∧ (t.latch = some v ↔ b &&& v = v) ∧
      (¬ b &&& v = v → t.latch = some (v &&& b) ∧ v &&& b ≠ v) ∧ (b = 0xFF#8 → t.latch = some v)

/-- In Powered with WRAM buffer m and no bus conflicts, a write of v at an address in both windows sets the latch to v and
leaves WRAM as it is, and a read of that address afterwards still answers the WRAM byte. (spec R55, spec R56, spec
R236.) -/
def Obligations.OverlapOfLatchAndWramWindows : Prop :=
  ∀ (s : State) (c : Cfg) (a : Addr) (v : Byte) (m : Memory), s.life = .powered → s.cfg = some c → c.hasWram = true →
    c.busConflict = false → c.winLow ≤ a → a ≤ c.winHigh → 0x6000#16 ≤ a → a ≤ 0x7FFF#16 → s.wram = some m →
    ∃ t, exec (.write a v) s = .next t ∧ t.latch = some v ∧ t.wram = some m ∧
      exec (.read a) t = .next { t with response := some (.byte (some (readByte m (a.toNat - 0x6000)))) }

/-- The assembler lines of the spec's encoding vectors assemble to their words: init with the record given beside the
stream, power_on, write $8000, #$05, write $FFFF, #$F3, read $FFFC, save_state, load_state #$12 without and with the
image zeros, close, battery_load with a named image, battery_save, and write $0, #$0; mnemonics are case-insensitive
and a comment is dropped. How tokens are separated is the model's choice (assumption log 17). (spec R79, spec R80,
95_test_vectors.md 2.1.) -/
def Obligations.AssemblerLinesOfTheSpec : Prop :=
  ∀ (r : Option CfgRecord) (img : Image),
    assembleLine ⟨r, []⟩ "init".toList = some ⟨0x00000000#32, { cfg := r }⟩ ∧
    assembleLine ⟨r, []⟩ "power_on".toList = some ⟨0x10000000#32, {}⟩ ∧
    assembleLine ⟨r, []⟩ "write $8000, #$05".toList = some ⟨0x20800005#32, {}⟩ ∧
    assembleLine ⟨r, []⟩ "WRITE $ffff, #$F3 ; a comment".toList = some ⟨0x20FFFFF3#32, {}⟩ ∧
    assembleLine ⟨r, []⟩ "read  $FFFC".toList = some ⟨0x30FFFC00#32, {}⟩ ∧
    assembleLine ⟨r, []⟩ "save_state".toList = some ⟨0x40000000#32, {}⟩ ∧
    assembleLine ⟨r, []⟩ "load_state #$12".toList = some ⟨0x50000012#32, {}⟩ ∧
    assembleLine ⟨r, []⟩ "load_state #$12, zeros".toList =
      some ⟨0x50000012#32, { image := some (List.replicate 8192 0x00#8) }⟩ ∧
    assembleLine ⟨r, []⟩ "close".toList = some ⟨0x60000000#32, {}⟩ ∧
    assembleLine ⟨r, [("img".toList, img)]⟩ "battery_load img".toList = some ⟨0x70000000#32, { image := some img }⟩ ∧
    assembleLine ⟨r, []⟩ "battery_save".toList = some ⟨0x80000000#32, {}⟩ ∧
    assembleLine ⟨r, []⟩ "write $0, #$0".toList = some ⟨0x20000000#32, {}⟩
end

