-- ==== Sys2Proof/Laws/Memory.lean ====
section
/-! SUPPORT. Laws of memory: every operation keeps the canonical form, a read after a write, and the bytes of an image. -/

namespace Sys2Proof.Machine

@[simp] theorem readByte_nil (a : Nat) : readByte [] a = 0#8 := rfl

theorem readByte_of_not_listed {m : Memory} {a : Nat} (h : ∀ c ∈ m, c.1 ≠ a) : readByte m a = 0#8 := by
  induction m with
  | nil => rfl
  | cons c m ih =>
    obtain ⟨k, b⟩ := c
    have hk : k ≠ a := h (k, b) (by simp)
    simp only [readByte, if_neg hk]
    exact ih fun c hc => h c (by simp [hc])

theorem zeros_wf : Memory.wf zeros := by simp [Memory.wf, zeros]

theorem zeros_below (n : Nat) : Memory.below n zeros := by simp [Memory.below, zeros]

/-- An entry of a written memory is the byte written or an entry from before. -/
theorem mem_writeByte {m : Memory} {a : Nat} {v : Byte} {c : Nat × Byte} (h : c ∈ writeByte m a v) :
    (c = (a, v) ∧ v ≠ 0#8) ∨ c ∈ m := by
  induction m with
  | nil =>
    simp only [writeByte] at h
    split at h <;> simp_all
  | cons d m ih =>
    obtain ⟨k, b⟩ := d
    simp only [writeByte] at h
    split at h
    · split at h
      · exact .inr h
      · rcases List.mem_cons.1 h with h | h
        · exact .inl ⟨h, ‹_›⟩
        · exact .inr h
    · split at h
      · split at h
        · exact .inr (List.mem_cons_of_mem _ h)
        · rcases List.mem_cons.1 h with h | h
          · exact .inl ⟨h, ‹_›⟩
          · exact .inr (List.mem_cons_of_mem _ h)
      · rcases List.mem_cons.1 h with h | h
        · exact .inr (by simp [h])
        · rcases ih h with h | h
          · exact .inl h
          · exact .inr (List.mem_cons_of_mem _ h)

theorem writeByte_below {m : Memory} {n a : Nat} {v : Byte} (hm : Memory.below n m) (ha : a < n) :
    Memory.below n (writeByte m a v) := by
  intro c hc
  rcases mem_writeByte hc with ⟨rfl, -⟩ | hc
  · exact ha
  · exact hm c hc

/-- A write keeps the canonical form. -/
theorem writeByte_wf {m : Memory} (a : Nat) (v : Byte) (hm : Memory.wf m) : Memory.wf (writeByte m a v) := by
  refine ⟨?_, ?_⟩
  · induction m with
    | nil => simp only [writeByte]; split <;> simp
    | cons d m ih =>
      obtain ⟨k, b⟩ := d
      obtain ⟨hp, hz⟩ := hm
      obtain ⟨hk, hp'⟩ := List.pairwise_cons.1 hp
      have ih' := ih ⟨hp', fun c hc => hz c (List.mem_cons_of_mem _ hc)⟩
      simp only [writeByte]
      split
      · split
        · exact hp
        · refine List.pairwise_cons.2 ⟨fun c hc => ?_, hp⟩
          rcases List.mem_cons.1 hc with rfl | hc
          · assumption
          · exact Nat.lt_trans ‹_› (hk c hc)
      · split
        · split
          · exact hp'
          · refine List.pairwise_cons.2 ⟨fun c hc => ?_, hp'⟩
            have := hk c hc
            simp_all
        · refine List.pairwise_cons.2 ⟨fun c hc => ?_, ih'⟩
          rcases mem_writeByte hc with ⟨rfl, -⟩ | hc
          · simp only; omega
          · exact hk c hc
  · intro c hc
    rcases mem_writeByte hc with ⟨rfl, hv⟩ | hc
    · exact hv
    · exact hm.2 c hc

/-- A byte written is read back. -/
theorem readByte_writeByte_same {m : Memory} (a : Nat) (v : Byte) (hm : Memory.wf m) :
    readByte (writeByte m a v) a = v := by
  induction m with
  | nil => simp only [writeByte]; split <;> simp_all [readByte]
  | cons d m ih =>
    obtain ⟨k, b⟩ := d
    obtain ⟨hp, hz⟩ := hm
    obtain ⟨hk, hp'⟩ := List.pairwise_cons.1 hp
    have above : a ≤ k → ∀ c ∈ m, c.1 ≠ a := fun h c hc => by have := hk c hc; simp only at this; omega
    simp only [writeByte]
    split
    · split
      · have : k ≠ a := by omega
        subst_vars
        rw [readByte, if_neg this]
        exact readByte_of_not_listed (above (by omega))
      · simp [readByte]
    · split
      · split
        · subst_vars
          exact readByte_of_not_listed (above (Nat.le_refl _))
        · simp [readByte]
      · have : k ≠ a := by omega
        simp only [readByte, if_neg this]
        exact ih ⟨hp', fun c hc => hz c (List.mem_cons_of_mem _ hc)⟩

/-- A write leaves every other byte alone. -/
theorem readByte_writeByte_other {a x : Nat} (v : Byte) (h : x ≠ a) (m : Memory) :
    readByte (writeByte m a v) x = readByte m x := by
  induction m with
  | nil => simp only [writeByte]; split <;> simp [readByte, h.symm]
  | cons d m ih =>
    obtain ⟨k, b⟩ := d
    simp only [writeByte]
    split
    · split
      · rfl
      · simp [readByte, h.symm]
    · split
      · split <;> subst_vars <;> simp [readByte, h.symm]
      · simp only [readByte, ih]

theorem ofImageFrom_ge {img : Image} {k : Nat} : ∀ c ∈ ofImageFrom k img, k ≤ c.1 := by
  induction img generalizing k with
  | nil => simp [ofImageFrom]
  | cons b bs ih =>
    intro c hc
    simp only [ofImageFrom] at hc
    split at hc
    · exact Nat.le_of_succ_le (ih c hc)
    · rcases List.mem_cons.1 hc with rfl | hc
      · exact Nat.le_refl _
      · exact Nat.le_of_succ_le (ih c hc)

theorem ofImageFrom_below (img : Image) (k : Nat) : Memory.below (k + img.length) (ofImageFrom k img) := by
  induction img generalizing k with
  | nil => simp [ofImageFrom, Memory.below]
  | cons b bs ih =>
    intro c hc
    have ih := ih (k + 1)
    simp only [ofImageFrom] at hc
    rw [List.length_cons, show k + (bs.length + 1) = k + 1 + bs.length by omega]
    split at hc
    · exact ih c hc
    · rcases List.mem_cons.1 hc with rfl | hc
      · simp only; omega
      · exact ih c hc

theorem ofImageFrom_wf (img : Image) (k : Nat) : Memory.wf (ofImageFrom k img) := by
  induction img generalizing k with
  | nil => simp [ofImageFrom, Memory.wf]
  | cons b bs ih =>
    simp only [ofImageFrom]
    split
    · exact ih (k + 1)
    · refine ⟨List.pairwise_cons.2 ⟨fun c hc => ?_, (ih (k + 1)).1⟩, fun c hc => ?_⟩
      · exact ofImageFrom_ge c hc
      · rcases List.mem_cons.1 hc with rfl | hc
        · assumption
        · exact (ih (k + 1)).2 c hc

/-- An image fills a memory in canonical form. -/
theorem ofImage_wf (img : Image) : Memory.wf (ofImage img) := ofImageFrom_wf img 0

theorem ofImage_below (img : Image) : Memory.below img.length (ofImage img) := by
  simpa [ofImage] using ofImageFrom_below img 0

theorem readByte_ofImageFrom (img : Image) (k i : Nat) : readByte (ofImageFrom k img) (k + i) = img.getD i 0#8 := by
  induction img generalizing k i with
  | nil => simp [ofImageFrom]
  | cons b bs ih =>
    simp only [ofImageFrom]
    cases i with
    | zero =>
      split
      · next h =>
        rw [readByte_of_not_listed fun c hc => by have := ofImageFrom_ge c hc; omega]
        simp [h]
      · simp [readByte]
    | succ i =>
      rw [show k + (i + 1) = k + 1 + i by omega, List.getD_cons_succ]
      split
      · exact ih (k + 1) i
      · rw [readByte, if_neg (by omega)]
        exact ih (k + 1) i

/-- Byte `i` of an image is at offset `i` of the memory it fills (spec R60). -/
theorem readByte_ofImage (img : Image) (i : Nat) : readByte (ofImage img) i = img.getD i 0#8 := by
  simpa [ofImage] using readByte_ofImageFrom img 0 i

@[simp] theorem toImage_length (m : Memory) : (toImage m).length = wramSize := by simp [toImage]

end Sys2Proof.Machine
end

