-- ==== Sys2Proof/Laws/State.lean ====
section
/-! SUPPORT. The fields of the states that the named updates make, one lemma per field per update. -/

namespace Sys2Proof.Machine

@[simp] theorem faultedState_life (code : FaultCode) (w : CmdWord) (operand : FaultOperand) (s : State) :
    (faultedState code w operand s).life = s.life := rfl

@[simp] theorem faultedState_cfg (code : FaultCode) (w : CmdWord) (operand : FaultOperand) (s : State) :
    (faultedState code w operand s).cfg = s.cfg := rfl

@[simp] theorem faultedState_latch (code : FaultCode) (w : CmdWord) (operand : FaultOperand) (s : State) :
    (faultedState code w operand s).latch = s.latch := rfl

@[simp] theorem faultedState_wram (code : FaultCode) (w : CmdWord) (operand : FaultOperand) (s : State) :
    (faultedState code w operand s).wram = s.wram := rfl

@[simp] theorem faultedState_bank (code : FaultCode) (w : CmdWord) (operand : FaultOperand) (s : State) :
    (faultedState code w operand s).bank = s.bank := rfl

@[simp] theorem faultedState_fault (code : FaultCode) (w : CmdWord) (operand : FaultOperand) (s : State) :
    (faultedState code w operand s).fault = some ⟨code, w, operand⟩ := rfl

@[simp] theorem faultedState_input (code : FaultCode) (w : CmdWord) (operand : FaultOperand) (s : State) :
    (faultedState code w operand s).input = s.input := rfl

@[simp] theorem faultedState_response (code : FaultCode) (w : CmdWord) (operand : FaultOperand) (s : State) :
    (faultedState code w operand s).response = none := rfl

@[simp] theorem initState_life (c : Cfg) (s : State) : (initState c s).life = .unpowered := rfl

@[simp] theorem initState_cfg (c : Cfg) (s : State) : (initState c s).cfg = some c := rfl

@[simp] theorem initState_latch (c : Cfg) (s : State) : (initState c s).latch = none := rfl

@[simp] theorem initState_wram (c : Cfg) (s : State) : (initState c s).wram = if c.hasWram then some zeros else none := rfl

@[simp] theorem initState_bank (c : Cfg) (s : State) : (initState c s).bank = BankMap.initial c.headerMirroring := rfl

@[simp] theorem initState_fault (c : Cfg) (s : State) : (initState c s).fault = s.fault := rfl

@[simp] theorem initState_input (c : Cfg) (s : State) : (initState c s).input = s.input := rfl

@[simp] theorem initState_response (c : Cfg) (s : State) : (initState c s).response = s.response := rfl

@[simp] theorem withCommand_life (s : State) (c : Command) : (withCommand s c).life = s.life := rfl

@[simp] theorem withCommand_cfg (s : State) (c : Command) : (withCommand s c).cfg = s.cfg := rfl

@[simp] theorem withCommand_latch (s : State) (c : Command) : (withCommand s c).latch = s.latch := rfl

@[simp] theorem withCommand_wram (s : State) (c : Command) : (withCommand s c).wram = s.wram := rfl

@[simp] theorem withCommand_bank (s : State) (c : Command) : (withCommand s c).bank = s.bank := rfl

@[simp] theorem withCommand_fault (s : State) (c : Command) : (withCommand s c).fault = none := rfl

@[simp] theorem withCommand_input (s : State) (c : Command) : (withCommand s c).input = c :: s.input := rfl

@[simp] theorem withCommand_response (s : State) (c : Command) : (withCommand s c).response = s.response := rfl

end Sys2Proof.Machine
end

