-- ==== Sys2Proof/Laws/Ops.lean ====
section
/-! SUPPORT. What each shared operation can do, said once: an equation where it has one outcome, and an inversion lemma
where it has several. -/

namespace Sys2Proof.Machine

/-! ### Outcomes -/

@[simp] theorem nextOf_next (t : State) : nextOf (.next t) = some t := rfl

@[simp] theorem respond_eq (r : Response) (s : State) : respond r s = .next { s with response := some r } := rfl

@[simp] theorem raise_eq (code : FaultCode) (w : CmdWord) (operand : FaultOperand) (s : State) :
    raise code w operand s = .next (faultedState code w operand s) := rfl

@[simp] theorem raiseShape_eq (w : CmdWord) (img : Option Image) (s : State) :
    raiseShape w img s = .next (faultedState .snapshotShape w (.payloadLength (img.map List.length)) s) := rfl

@[simp] theorem checked_none (w : CmdWord) (s : State) (k : Out) : checked none w s k = k := rfl

@[simp] theorem checked_some (f : FaultCode) (w : CmdWord) (s : State) (k : Out) :
    checked (some f) w s k = .next (faultedState f w .nothing s) := rfl

theorem checked_next {fault : Option FaultCode} {w : CmdWord} {s t : State} {k : Out}
    (h : checked fault w s k = .next t) :
    (∃ f, fault = some f ∧ t = faultedState f w .nothing s) ∨ (fault = none ∧ k = .next t) := by
  cases fault with
  | none => exact .inr ⟨rfl, h⟩
  | some f => exact .inl ⟨f, rfl, by simpa using h.symm⟩

@[simp] theorem withCfg_some_fault (f : FaultCode) (w : CmdWord) (s : State) (k : Cfg → Out) :
    withCfg (some f) w s k = .next (faultedState f w .nothing s) := rfl

theorem withCfg_bound {c : Cfg} {s : State} (h : s.cfg = some c) (w : CmdWord) (k : Cfg → Out) :
    withCfg none w s k = k c := by simp [withCfg, h]

/-- A command that reads the configuration raises, or runs under the one that is bound. -/
theorem withCfg_next {fault : Option FaultCode} {w : CmdWord} {s t : State} {k : Cfg → Out}
    (h : withCfg fault w s k = .next t) :
    (∃ f, t = faultedState f w .nothing s) ∨ ∃ c, fault = none ∧ s.cfg = some c ∧ k c = .next t := by
  rcases checked_next h with ⟨f, -, rfl⟩ | ⟨hf, h⟩
  · exact .inl ⟨f, rfl⟩
  · cases hc : s.cfg with
    | none => exact .inl ⟨.noInstance, by simpa [hc] using h.symm⟩
    | some c => exact .inr ⟨c, hf, rfl, by simpa [hc] using h⟩

/-! ### Bank map -/

@[simp] theorem applyCalls_nil (m : BankMap) : applyCalls [] m = m := rfl

@[simp] theorem applyCalls_cons (c : BankCall) (cs : List BankCall) (m : BankMap) :
    applyCalls (c :: cs) m = applyCalls cs (applyCall m c) := rfl

theorem applyCalls_append (cs ds : List BankCall) (m : BankMap) :
    applyCalls (cs ++ ds) m = applyCalls ds (applyCalls cs m) := List.foldl_append

theorem prgGet_prgSet_same {i : Nat} (hi : i < 4) (p : PrgSlots) (b : Nat) : prgGet (prgSet p i b) i = some b := by
  obtain rfl | rfl | rfl | rfl : i = 0 ∨ i = 1 ∨ i = 2 ∨ i = 3 := by omega
  all_goals rfl

theorem prgGet_prgSet_other {i j : Nat} (h : j ≠ i) (p : PrgSlots) (b : Nat) :
    prgGet (prgSet p i b) j = prgGet p j := by
  unfold prgSet
  split <;> unfold prgGet <;> split <;> simp_all

theorem chrGet_chrSet_same {j : Nat} (hj : j < 8) (p : ChrSlots) (b : Nat) : chrGet (chrSet p j b) j = some b := by
  obtain rfl | rfl | rfl | rfl | rfl | rfl | rfl | rfl :
    j = 0 ∨ j = 1 ∨ j = 2 ∨ j = 3 ∨ j = 4 ∨ j = 5 ∨ j = 6 ∨ j = 7 := by omega
  all_goals rfl

theorem chrGet_chrSet_other {i j : Nat} (h : j ≠ i) (p : ChrSlots) (b : Nat) :
    chrGet (chrSet p i b) j = chrGet p j := by
  unfold chrSet
  split <;> unfold chrGet <;> split <;> simp_all

/-- A bank call changes the bank map only, or is refused. -/
theorem bankCall_next {ok : Bool} {f : BankMap → BankMap} {s t : State} (h : bankCall ok f s = .next t) :
    ok = true ∧ t = { s with bank := f s.bank } := by
  cases ok <;> simp_all [bankCall]

/-! ### Sync -/

theorem syncWith_latched {s : State} {latch : Byte} (h : s.latch = some latch) (calls : Byte → List BankCall)
    (w : CmdWord) (k : List BankCall → State → Out) :
    syncWith calls w s k = k (calls latch) { s with bank := applyCalls (calls latch) s.bank } := by
  simp [syncWith, h]

/-- A Sync raises where the latch holds no value, or applies its calls and hands them on. -/
theorem syncWith_next {calls : Byte → List BankCall} {w : CmdWord} {s t : State} {k : List BankCall → State → Out}
    (h : syncWith calls w s k = .next t) :
    (s.latch = none ∧ t = faultedState .notPowered w .nothing s) ∨
    ∃ latch, s.latch = some latch ∧
      k (calls latch) { s with bank := applyCalls (calls latch) s.bank } = .next t := by
  cases hl : s.latch with
  | none => exact .inl ⟨rfl, by simpa [syncWith, hl] using h.symm⟩
  | some latch => exact .inr ⟨latch, rfl, by simpa [syncWith, hl] using h⟩

/-- A variant run on its own raises, or applies its calls to the bank map and answers them. -/
theorem runVariant_next {v : Variant} {w : CmdWord} {s t : State} (h : runVariant v w s = .next t) :
    (∃ f, t = faultedState f w .nothing s) ∨
    ∃ c latch, s.cfg = some c ∧ s.latch = some latch ∧
      t = { s with
        bank := applyCalls (decodeCalls v latch c.submapper c.prgBanks16) s.bank
        response := some (.calls (decodeCalls v latch c.submapper c.prgBanks16)) } := by
  rcases withCfg_next h with h | ⟨c, -, hc, h⟩
  · exact .inl h
  · rcases syncWith_next h with ⟨-, rfl⟩ | ⟨latch, hl, h⟩
    · exact .inl ⟨_, rfl⟩
    · exact .inr ⟨c, latch, hc, hl, by simpa using h.symm⟩

/-- A reserved tag raises. -/
theorem refuseTag_eq (w : CmdWord) (s : State) :
    ∃ f o, refuseTag w s = .next (faultedState f w o s) := by
  unfold refuseTag
  cases hl : lifeInit s.life with
  | none => exact ⟨_, _, rfl⟩
  | some f => exact ⟨_, _, rfl⟩

/-! ### Bus accesses -/

/-- The effective value of a latch write is the value, or the value AND the ROM byte. -/
theorem effective_ok {c : Cfg} {a : Addr} {v eff : Byte} {s : State} (h : effective c a v s = .ok eff) :
    (c.busConflict = false ∧ eff = v) ∨
    (c.busConflict = true ∧ inRomWin a = true ∧ ∃ b, romByte c s.bank a = some b ∧ eff = v &&& b) := by
  unfold effective at h
  split at h
  · split at h
    · split at h
      · next b hb => exact .inr ⟨‹_›, ‹_›, b, hb, by simpa using h.symm⟩
      · simp at h
    · simp at h
  · next hc => exact .inl ⟨by simpa using hc, by simpa using h.symm⟩

/-- A latch write raises, or sets the latch to the effective value and syncs. -/
theorem latchWrite_next {c : Cfg} {w : CmdWord} {a : Addr} {v : Byte} {s t : State}
    (h : latchWrite c w a v s = .next t) :
    (∃ f o, t = faultedState f w o s) ∨
    ∃ eff, effective c a v s = .ok eff ∧
      t = { s with
        latch := some eff
        bank := applyCalls (syncCalls c eff) s.bank
        response := some (.write true (syncCalls c eff)) } := by
  unfold latchWrite at h
  split at h
  · next eff he =>
    exact .inr ⟨eff, he, by simpa [sync, syncWith] using h.symm⟩
  · exact .inl ⟨_, _, by simpa using h.symm⟩

/-- A WRAM write changes WRAM and the response only. -/
theorem wramWrite_next {a : Addr} {v : Byte} {s t : State} (h : wramWrite a v s = .next t) :
    ∃ m, s.wram = some m ∧
      t = { s with wram := some (writeByte m (wramOffset a) v), response := some (.write true []) } := by
  unfold wramWrite at h
  split at h
  · next m hm => exact ⟨m, hm, by simpa using h.symm⟩
  · simp at h

/-- A WRAM read changes the response only. -/
theorem wramRead_next {a : Addr} {s t : State} (h : wramRead a s = .next t) :
    ∃ m, s.wram = some m ∧ t = { s with response := some (.byte (some (readByte m (wramOffset a)))) } := by
  unfold wramRead at h
  split at h
  · next m hm => exact ⟨m, hm, by simpa using h.symm⟩
  · simp at h

/-- A ROM read raises at a slot that holds ⊥, or changes the response only. -/
theorem romRead_next {c : Cfg} {w : CmdWord} {a : Addr} {s t : State} (h : romRead c w a s = .next t) :
    (romByte c s.bank a = none ∧ t = faultedState .notPowered w (.addr a) s) ∨
    ∃ b, romByte c s.bank a = some b ∧ t = { s with response := some (.byte (some b)) } := by
  unfold romRead at h
  split at h
  · next b hb => exact .inr ⟨b, hb, by simpa using h.symm⟩
  · next hb => exact .inl ⟨hb, by simpa using h.symm⟩

theorem ofClass_next {here : Bool} {k : Out} {t : State} (h : ofClass here k = .next t) : here = true ∧ k = .next t := by
  cases here <;> simp_all [ofClass]

end Sys2Proof.Machine
end

