-- ==== Sys2Proof/Laws/Step.lean ====
section
/-! SUPPORT. What a step can do: one inversion lemma over fetch and decode. -/

namespace Sys2Proof.Machine

theorem step_faulted {s : State} {r : FaultRecord} (h : s.fault = some r) : step s = .fault (.sticky r) := by
  simp [step, runNext, h]

theorem step_idle {s : State} (hf : s.fault = none) (hi : s.input = []) : step s = .fault .noCommand := by
  simp [step, runNext, hf, hi]

theorem step_command {s : State} {c : Command} {rest : List Command} (hf : s.fault = none) (hi : s.input = c :: rest) :
    step s = runCommand c { s with input := rest } := by
  simp [step, runNext, hf, hi]

/-- A step with a next state took the oldest command, with no fault recorded, and either ran the instruction it decodes
to or raised `F_RESERVED_FIELD`. -/
theorem step_next {s t : State} (h : step s = .next t) :
    s.fault = none ∧ ∃ c rest, s.input = c :: rest ∧
      ((∃ i, decode c.word c.payload = .ok i ∧ exec i { s with input := rest } = .next t) ∨
       (decode c.word c.payload = .error .reservedField ∧
        t = faultedState .reservedField c.word .nothing { s with input := rest })) := by
  cases hf : s.fault with
  | some r => simp [step_faulted hf] at h
  | none =>
    cases hi : s.input with
    | nil => simp [step_idle hf hi] at h
    | cons c rest =>
      rw [step_command hf hi] at h
      refine ⟨rfl, c, rest, rfl, ?_⟩
      cases hd : decode c.word c.payload with
      | ok i => exact .inl ⟨i, rfl, by simpa [runCommand, hd, hf] using h⟩
      | error e =>
        cases e
        exact .inr ⟨rfl, by simpa [runCommand, hd, hf] using h.symm⟩

end Sys2Proof.Machine
end

