-- ==== Sys2Proof/Laws/Exec.lean ====
section
/-! SUPPORT. What each instruction can do, said once: a next state is the present one with a fault recorded, or the effect
listed for the instruction in `Effect`. -/

namespace Sys2Proof.Machine

/-- The state a latch write of effective value `eff` leaves. -/
def latchedState (c : Cfg) (eff : Byte) (s : State) : State :=
  { s with
    latch := some eff
    bank := applyCalls (syncCalls c eff) s.bank
    response := some (.write true (syncCalls c eff)) }

/-- The state a WRAM write leaves. -/
def wramWrittenState (m : Memory) (a : Addr) (v : Byte) (s : State) : State :=
  { s with wram := some (writeByte m (wramOffset a) v), response := some (.write true []) }

/-- The state a variant's decode leaves. -/
def variantState (v : Variant) (c : Cfg) (latch : Byte) (s : State) : State :=
  { s with
    bank := applyCalls (decodeCalls v latch c.submapper c.prgBanks16) s.bank
    response := some (.calls (decodeCalls v latch c.submapper c.prgBanks16)) }

/-- The effect of an instruction that does not fault: from `s` to `t`. -/
def Effect (i : Instr) (s t : State) : Prop :=
  match i with
  | .init r => s.life = .absent ∧ ∃ x c, r = some x ∧ bindRecord x = .ok c ∧
      t = { initState c s with response := some .unit }
  | .powerOn => s.life = .unpowered ∧ ∃ c, s.cfg = some c ∧
      t = { s with
        life := .powered
        latch := some c.initLatch
        bank := applyCalls (syncCalls c c.initLatch) s.bank
        response := some (.powerOn (syncCalls c c.initLatch) c.hasWram) }
  | .write a v => s.life = .powered ∧ ∃ c, s.cfg = some c ∧
      ((classifyWrite c a = .latch ∧ ∃ eff, effective c a v s = .ok eff ∧ t = latchedState c eff s) ∨
       (classifyWrite c a = .wram ∧ ∃ m, s.wram = some m ∧ t = wramWrittenState m a v s) ∨
       (classifyWrite c a = .ignored ∧ t = { s with response := some (.write false []) }))
  | .read _ => s.life = .powered ∧ ∃ c b, s.cfg = some c ∧ t = { s with response := some (.byte b) }
  | .saveState => s.life = .powered ∧ ∃ c latch img, s.cfg = some c ∧ s.latch = some latch ∧
      t = { s with response := some (.snapshot latch img) }
  | .loadState d img => s.life = .powered ∧ ∃ c, s.cfg = some c ∧ snapshotShapeOk c img = true ∧
      t = { s with
        latch := some d
        wram := loadedWram c img s.wram
        bank := applyCalls (syncCalls c d) s.bank
        response := some (.calls (syncCalls c d)) }
  | .close => s.life ≠ .absent ∧ t = { s with wram := none, life := .closed, response := some .unit }
  | .batteryLoad img => s.life = .unpowered ∧ ∃ c x, s.cfg = some c ∧ c.batterySave = true ∧ img = some x ∧
      x.length = wramSize ∧ t = { s with wram := some (ofImage x), response := some .unit }
  | .batterySave => ∃ m, s.wram = some m ∧ t = { s with response := some (.image (toImage m)) }
  | .latchWrite a v => s.life = .powered ∧ ∃ c, s.cfg = some c ∧ classifyWrite c a = .latch ∧
      ∃ eff, effective c a v s = .ok eff ∧ t = latchedState c eff s
  | .wramWrite a v => s.life = .powered ∧ ∃ c, s.cfg = some c ∧ classifyWrite c a = .wram ∧
      ∃ m, s.wram = some m ∧ t = wramWrittenState m a v s
  | .ignoredWrite a _ => s.life = .powered ∧ ∃ c, s.cfg = some c ∧ classifyWrite c a = .ignored ∧
      t = { s with response := some (.write false []) }
  | .wramRead _ | .romRead _ | .unhandledRead _ => s.life = .powered ∧ ∃ b, t = { s with response := some (.byte b) }
  | .prg16LowSwitch => ∃ c latch, s.cfg = some c ∧ s.latch = some latch ∧ t = variantState .prg16LowSwitch c latch s
  | .chr8Switch => ∃ c latch, s.cfg = some c ∧ s.latch = some latch ∧ t = variantState .chr8Switch c latch s
  | .combined p => ∃ c latch, s.cfg = some c ∧ s.latch = some latch ∧ t = variantState (.combined p) c latch s
  | .submapperPolarity p =>
      ∃ c latch, s.cfg = some c ∧ s.latch = some latch ∧ t = variantState (.submapperPolarity p) c latch s
  | .setPrg8 w b => t = { s with bank := applySetPrg8 w b s.bank }
  | .setPrg16 w b => t = { s with bank := applySetPrg16 w b s.bank }
  | .setPrg32 b => t = { s with bank := applySetPrg32 b s.bank }
  | .setChr1 w b => t = { s with bank := applySetChr1 w b s.bank }
  | .setChr4 w b => t = { s with bank := applySetChr4 w b s.bank }
  | .setChr8 b => t = { s with bank := applySetChr8 b s.bank }
  | .setMirror m => t = { s with bank := applySetMirror m s.bank }
  | .reservedOp9 _ | .reservedOpA _ | .reservedOpB _ | .reservedOpC _ | .reservedOpD _ | .reservedOpE _
  | .reservedOpF _ => False
  | .reservedVariant4 | .reservedVariant5 | .reservedVariant6 | .reservedVariant7 | .reservedVariant8
  | .reservedVariant9 | .reservedVariant10 | .reservedVariant11 | .reservedVariant12 | .reservedVariant13
  | .reservedVariant14 | .reservedVariant15 => False

/-- `t` is `s` with a fault recorded under `i`'s word. -/
def Raised (i : Instr) (s t : State) : Prop := ∃ f o, t = faultedState f i.word o s

theorem lifeInit_none {l : Life} (h : lifeInit l = none) : l = .absent := by cases l <;> simp_all [lifeInit]

theorem lifePowerOn_none {l : Life} (h : lifePowerOn l = none) : l = .unpowered := by
  cases l <;> simp_all [lifePowerOn]

theorem lifeRunning_none {l : Life} (h : lifeRunning l = none) : l = .powered := by
  cases l <;> simp_all [lifeRunning]

theorem lifeClose_none {l : Life} (h : lifeClose l = none) : l ≠ .absent := by cases l <;> simp_all [lifeClose]

theorem lifeBatteryLoad_none {l : Life} (h : lifeBatteryLoad l = none) : l = .unpowered := by
  cases l <;> simp_all [lifeBatteryLoad]

theorem execInit_next {r : Option CfgRecord} {s t : State} (h : exec (.init r) s = .next t) :
    Raised (.init r) s t ∨ Effect (.init r) s t := by
  rcases checked_next h with ⟨f, -, rfl⟩ | ⟨hl, h⟩
  · exact .inl ⟨_, _, rfl⟩
  · cases r with
    | none => exact .inl ⟨_, _, by simpa using h.symm⟩
    | some x =>
      cases hb : bindRecord x with
      | ok c => exact .inr ⟨lifeInit_none hl, x, c, rfl, hb, by simpa [hb] using h.symm⟩
      | error e => exact .inl ⟨.configInvalid, .check e, by simpa [hb] using h.symm⟩

theorem execPowerOn_next {s t : State} (h : exec .powerOn s = .next t) :
    Raised .powerOn s t ∨ Effect .powerOn s t := by
  rcases withCfg_next h with ⟨f, rfl⟩ | ⟨c, hl, hc, h⟩
  · exact .inl ⟨_, _, rfl⟩
  · exact .inr ⟨lifePowerOn_none hl, c, hc, by simpa [sync, syncWith] using h.symm⟩

theorem execWrite_next {a : Addr} {v : Byte} {s t : State} (h : exec (.write a v) s = .next t) :
    Raised (.write a v) s t ∨ Effect (.write a v) s t := by
  rcases withCfg_next h with ⟨f, rfl⟩ | ⟨c, hl, hc, h⟩
  · exact .inl ⟨_, _, rfl⟩
  · split at h
    · next hk =>
      rcases latchWrite_next h with ⟨f, o, rfl⟩ | ⟨eff, he, rfl⟩
      · exact .inl ⟨f, o, rfl⟩
      · exact .inr ⟨lifeRunning_none hl, c, hc, .inl ⟨hk, eff, he, rfl⟩⟩
    · next hk =>
      obtain ⟨m, hm, rfl⟩ := wramWrite_next h
      exact .inr ⟨lifeRunning_none hl, c, hc, .inr (.inl ⟨hk, m, hm, rfl⟩)⟩
    · next hk => exact .inr ⟨lifeRunning_none hl, c, hc, .inr (.inr ⟨hk, by simpa [ignoredWrite] using h.symm⟩)⟩

theorem execRead_next {a : Addr} {s t : State} (h : exec (.read a) s = .next t) :
    Raised (.read a) s t ∨ Effect (.read a) s t := by
  rcases withCfg_next h with ⟨f, rfl⟩ | ⟨c, hl, hc, h⟩
  · exact .inl ⟨_, _, rfl⟩
  · split at h
    · obtain ⟨m, -, rfl⟩ := wramRead_next h
      exact .inr ⟨lifeRunning_none hl, c, _, hc, rfl⟩
    · rcases romRead_next h with ⟨-, rfl⟩ | ⟨b, -, rfl⟩
      · exact .inl ⟨_, _, rfl⟩
      · exact .inr ⟨lifeRunning_none hl, c, _, hc, rfl⟩
    · exact .inr ⟨lifeRunning_none hl, c, none, hc, by simpa [unhandledRead] using h.symm⟩

theorem execSaveState_next {s t : State} (h : exec .saveState s = .next t) :
    Raised .saveState s t ∨ Effect .saveState s t := by
  rcases withCfg_next h with ⟨f, rfl⟩ | ⟨c, hl, hc, h⟩
  · exact .inl ⟨_, _, rfl⟩
  · split at h
    · exact .inl ⟨_, _, by simpa using h.symm⟩
    · next latch hL =>
      have done : ∀ img, t = { s with response := some (.snapshot latch img) } → Effect .saveState s t :=
        fun img ht => ⟨lifeRunning_none hl, c, latch, img, hc, hL, ht⟩
      split at h
      · split at h
        · exact .inr (done _ (by simpa using h.symm))
        · simp at h
      · exact .inr (done none (by simpa using h.symm))

theorem execLoadState_next {d : Byte} {img : Option Image} {s t : State} (h : exec (.loadState d img) s = .next t) :
    Raised (.loadState d img) s t ∨ Effect (.loadState d img) s t := by
  rcases withCfg_next h with ⟨f, rfl⟩ | ⟨c, hl, hc, h⟩
  · exact .inl ⟨_, _, rfl⟩
  · split at h
    · next hs => exact .inr ⟨lifeRunning_none hl, c, hc, hs, by simpa [sync, syncWith] using h.symm⟩
    · exact .inl ⟨_, _, by simpa using h.symm⟩

theorem execClose_next {s t : State} (h : exec .close s = .next t) : Raised .close s t ∨ Effect .close s t := by
  rcases checked_next h with ⟨f, -, rfl⟩ | ⟨hl, h⟩
  · exact .inl ⟨_, _, rfl⟩
  · exact .inr ⟨lifeClose_none hl, by simpa using h.symm⟩

theorem execBatteryLoad_next {img : Option Image} {s t : State} (h : exec (.batteryLoad img) s = .next t) :
    Raised (.batteryLoad img) s t ∨ Effect (.batteryLoad img) s t := by
  rcases withCfg_next h with ⟨f, rfl⟩ | ⟨c, hl, hc, h⟩
  · exact .inl ⟨_, _, rfl⟩
  · split at h
    · next hb =>
      cases img with
      | none => exact .inl ⟨.snapshotShape, .payloadLength none, by simpa using h.symm⟩
      | some x =>
        simp only at h
        split at h
        · next hx => exact .inr ⟨lifeBatteryLoad_none hl, c, x, hc, hb, rfl, hx, by simpa using h.symm⟩
        · exact .inl ⟨.snapshotShape, .payloadLength (some x.length), by simpa using h.symm⟩
    · exact .inl ⟨_, _, by simpa using h.symm⟩

theorem execBatterySave_next {s t : State} (h : exec .batterySave s = .next t) :
    Raised .batterySave s t ∨ Effect .batterySave s t := by
  rcases withCfg_next h with ⟨f, rfl⟩ | ⟨c, hl, hc, h⟩
  · exact .inl ⟨_, _, rfl⟩
  · split at h
    · split at h
      · next m hm => exact .inr ⟨m, hm, by simpa using h.symm⟩
      · simp at h
    · exact .inl ⟨_, _, by simpa using h.symm⟩

theorem execLatchWrite_next {a : Addr} {v : Byte} {s t : State} (h : exec (.latchWrite a v) s = .next t) :
    Raised (.latchWrite a v) s t ∨ Effect (.latchWrite a v) s t := by
  rcases withCfg_next h with ⟨f, rfl⟩ | ⟨c, hl, hc, h⟩
  · exact .inl ⟨_, _, rfl⟩
  · obtain ⟨hk, h⟩ := ofClass_next h
    rcases latchWrite_next h with ⟨f, o, rfl⟩ | ⟨eff, he, rfl⟩
    · exact .inl ⟨f, o, rfl⟩
    · exact .inr ⟨lifeRunning_none hl, c, hc, by simpa using hk, eff, he, rfl⟩

theorem execWramWrite_next {a : Addr} {v : Byte} {s t : State} (h : exec (.wramWrite a v) s = .next t) :
    Raised (.wramWrite a v) s t ∨ Effect (.wramWrite a v) s t := by
  rcases withCfg_next h with ⟨f, rfl⟩ | ⟨c, hl, hc, h⟩
  · exact .inl ⟨_, _, rfl⟩
  · obtain ⟨hk, h⟩ := ofClass_next h
    obtain ⟨m, hm, rfl⟩ := wramWrite_next h
    exact .inr ⟨lifeRunning_none hl, c, hc, by simpa using hk, m, hm, rfl⟩

theorem execIgnoredWrite_next {a : Addr} {v : Byte} {s t : State} (h : exec (.ignoredWrite a v) s = .next t) :
    Raised (.ignoredWrite a v) s t ∨ Effect (.ignoredWrite a v) s t := by
  rcases withCfg_next h with ⟨f, rfl⟩ | ⟨c, hl, hc, h⟩
  · exact .inl ⟨_, _, rfl⟩
  · obtain ⟨hk, h⟩ := ofClass_next h
    exact .inr ⟨lifeRunning_none hl, c, hc, by simpa using hk, by simpa [ignoredWrite] using h.symm⟩

theorem execWramRead_next {a : Addr} {s t : State} (h : exec (.wramRead a) s = .next t) :
    Raised (.wramRead a) s t ∨ Effect (.wramRead a) s t := by
  rcases withCfg_next h with ⟨f, rfl⟩ | ⟨c, hl, -, h⟩
  · exact .inl ⟨_, _, rfl⟩
  · obtain ⟨m, -, rfl⟩ := wramRead_next (ofClass_next h).2
    exact .inr ⟨lifeRunning_none hl, _, rfl⟩

theorem execRomRead_next {a : Addr} {s t : State} (h : exec (.romRead a) s = .next t) :
    Raised (.romRead a) s t ∨ Effect (.romRead a) s t := by
  rcases withCfg_next h with ⟨f, rfl⟩ | ⟨c, hl, -, h⟩
  · exact .inl ⟨_, _, rfl⟩
  · rcases romRead_next (ofClass_next h).2 with ⟨-, rfl⟩ | ⟨b, -, rfl⟩
    · exact .inl ⟨_, _, rfl⟩
    · exact .inr ⟨lifeRunning_none hl, _, rfl⟩

theorem execUnhandledRead_next {a : Addr} {s t : State} (h : exec (.unhandledRead a) s = .next t) :
    Raised (.unhandledRead a) s t ∨ Effect (.unhandledRead a) s t := by
  rcases withCfg_next h with ⟨f, rfl⟩ | ⟨c, hl, -, h⟩
  · exact .inl ⟨_, _, rfl⟩
  · exact .inr ⟨lifeRunning_none hl, none, by simpa [unhandledRead] using (ofClass_next h).2.symm⟩

theorem raised_of_refuseTag {i : Instr} {s t : State} (h : refuseTag i.word s = .next t) : Raised i s t := by
  obtain ⟨f, o, he⟩ := refuseTag_eq i.word s
  exact ⟨f, o, by simpa using h.symm.trans he⟩

theorem raised_or_variant {i : Instr} {v : Variant} {s t : State} (h : runVariant v i.word s = .next t) :
    Raised i s t ∨ ∃ c latch, s.cfg = some c ∧ s.latch = some latch ∧ t = variantState v c latch s := by
  rcases runVariant_next h with ⟨f, rfl⟩ | h
  · exact .inl ⟨_, _, rfl⟩
  · exact .inr h

theorem raised_of_reserved {i : Instr} {f : FaultCode} {s t : State} (h : raise f i.word .nothing s = .next t) :
    Raised i s t := ⟨f, .nothing, by simpa using h.symm⟩

/-- A next state of an instruction is the present one with a fault recorded, or the instruction's effect. -/
theorem exec_next {i : Instr} {s t : State} (h : exec i s = .next t) : Raised i s t ∨ Effect i s t := by
  cases i with
  | init r => exact execInit_next h
  | powerOn => exact execPowerOn_next h
  | write a v => exact execWrite_next h
  | read a => exact execRead_next h
  | saveState => exact execSaveState_next h
  | loadState d img => exact execLoadState_next h
  | close => exact execClose_next h
  | batteryLoad img => exact execBatteryLoad_next h
  | batterySave => exact execBatterySave_next h
  | reservedOp9 x => exact .inl (raised_of_reserved h)
  | reservedOpA x => exact .inl (raised_of_reserved h)
  | reservedOpB x => exact .inl (raised_of_reserved h)
  | reservedOpC x => exact .inl (raised_of_reserved h)
  | reservedOpD x => exact .inl (raised_of_reserved h)
  | reservedOpE x => exact .inl (raised_of_reserved h)
  | reservedOpF x => exact .inl (raised_of_reserved h)
  | latchWrite a v => exact execLatchWrite_next h
  | wramWrite a v => exact execWramWrite_next h
  | ignoredWrite a v => exact execIgnoredWrite_next h
  | wramRead a => exact execWramRead_next h
  | romRead a => exact execRomRead_next h
  | unhandledRead a => exact execUnhandledRead_next h
  | prg16LowSwitch => exact raised_or_variant (i := .prg16LowSwitch) h
  | chr8Switch => exact raised_or_variant (i := .chr8Switch) h
  | combined p => exact raised_or_variant (i := .combined p) h
  | submapperPolarity p => exact raised_or_variant (i := .submapperPolarity p) h
  | reservedVariant4 => exact .inl (raised_of_refuseTag h)
  | reservedVariant5 => exact .inl (raised_of_refuseTag h)
  | reservedVariant6 => exact .inl (raised_of_refuseTag h)
  | reservedVariant7 => exact .inl (raised_of_refuseTag h)
  | reservedVariant8 => exact .inl (raised_of_refuseTag h)
  | reservedVariant9 => exact .inl (raised_of_refuseTag h)
  | reservedVariant10 => exact .inl (raised_of_refuseTag h)
  | reservedVariant11 => exact .inl (raised_of_refuseTag h)
  | reservedVariant12 => exact .inl (raised_of_refuseTag h)
  | reservedVariant13 => exact .inl (raised_of_refuseTag h)
  | reservedVariant14 => exact .inl (raised_of_refuseTag h)
  | reservedVariant15 => exact .inl (raised_of_refuseTag h)
  | setPrg8 w b => exact .inr (bankCall_next h).2
  | setPrg16 w b => exact .inr (bankCall_next h).2
  | setPrg32 b => exact .inr (bankCall_next (ok := true) (f := applySetPrg32 b) h).2
  | setChr1 w b => exact .inr (bankCall_next h).2
  | setChr4 w b => exact .inr (bankCall_next h).2
  | setChr8 b => exact .inr (bankCall_next (ok := true) (f := applySetChr8 b) h).2
  | setMirror m => exact .inr (bankCall_next (ok := true) (f := applySetMirror m) h).2

end Sys2Proof.Machine
end

