-- ==== Sys2Proof/Tests/Slice0.lean ====
section
/-! SUPPORT. Tests. Expected results are the spec's own vectors (95_test_vectors.md, named in the comments) or read off
the rule named; the ROM images list only the bytes a test reads. Then the witnesses of the obligations' hypotheses. -/

namespace Sys2Proof.Tests

open Sys2Proof Sys2Proof.Machine

/-! ### Well-formedness: each check refuses an ill-formed term (spec R163, R164, R166, R167) -/

theorem test_wellFormed_setPrg8 : (Instr.setPrg8 0xE000#16 3).wellFormed = true ∧
    (Instr.setPrg8 0x6000#16 3).wellFormed = false ∧ (Instr.setPrg8 0x8001#16 3).wellFormed = false := by decide

theorem test_wellFormed_setPrg16 : (Instr.setPrg16 0xC000#16 3).wellFormed = true ∧
    (Instr.setPrg16 0xA000#16 3).wellFormed = false := by decide

theorem test_wellFormed_setChr1 : (Instr.setChr1 0x1C00#16 3).wellFormed = true ∧
    (Instr.setChr1 0x2000#16 3).wellFormed = false ∧ (Instr.setChr1 0x0401#16 3).wellFormed = false := by decide

theorem test_wellFormed_setChr4 : (Instr.setChr4 0x1000#16 3).wellFormed = true ∧
    (Instr.setChr4 0x0400#16 3).wellFormed = false := by decide

theorem test_wellFormed_call : (BankCall.setPrg8 0x9000#16 0).wellFormed = false ∧
    (BankCall.setPrg16 0xE000#16 0).wellFormed = false ∧ (BankCall.setChr1 0x0001#16 0).wellFormed = false ∧
    (BankCall.setChr4 0x2000#16 0).wellFormed = false := by decide

/-! ### Decoding: words written out from spec R70, R71 (vectors E1v to E17v) -/

-- OP 0000, RSV 0000, ADDR 0000000000000000, DATA 00000000
theorem test_decode_init : decode 0b00000000000000000000000000000000#32 {} = .ok (.init none) := by decide

-- OP 0001
theorem test_decode_powerOn : decode 0b00010000000000000000000000000000#32 {} = .ok .powerOn := by decide

-- OP 0010, RSV 0000, ADDR 1000000000000000, DATA 00000101; and ADDR 0xFFFF, DATA 0xF3
theorem test_decode_write : decode 0b00100000100000000000000000000101#32 {} = .ok (.write 0x8000#16 0x05#8) ∧
    decode 0x20FFFFF3#32 {} = .ok (.write 0xFFFF#16 0xF3#8) := by decide

-- OP 0011, RSV 0000, ADDR 1111111111111100
theorem test_decode_read : decode 0b00110000111111111111110000000000#32 {} = .ok (.read 0xFFFC#16) := by decide

-- OP 0100
theorem test_decode_saveState : decode 0b01000000000000000000000000000000#32 {} = .ok .saveState := by decide

-- OP 0101, DATA 00010010; the image is the payload's
theorem test_decode_loadState : decode 0b01010000000000000000000000010010#32 {} = .ok (.loadState 0x12#8 none) ∧
    decode 0x50000012#32 { image := some [1#8] } = .ok (.loadState 0x12#8 (some [1#8])) := by decide

-- OP 0110
theorem test_decode_close : decode 0b01100000000000000000000000000000#32 {} = .ok .close := by decide

-- OP 0111
theorem test_decode_batteryLoad :
    decode 0b01110000000000000000000000000000#32 { image := some [] } = .ok (.batteryLoad (some [])) := by decide

-- OP 1000
theorem test_decode_batterySave : decode 0b10000000000000000000000000000000#32 {} = .ok .batterySave := by decide

-- OP 1001 to 1111, each with the 28 bits below it kept
theorem test_decode_reservedOp9 : decode 0x90000000#32 {} = .ok (.reservedOp9 0#28) ∧
    decode 0x91000000#32 {} = .ok (.reservedOp9 0x1000000#28) := by decide

theorem test_decode_reservedOpA : decode 0xA0000001#32 {} = .ok (.reservedOpA 1#28) := by decide

theorem test_decode_reservedOpB : decode 0xB0000002#32 {} = .ok (.reservedOpB 2#28) := by decide

theorem test_decode_reservedOpC : decode 0xC0000003#32 {} = .ok (.reservedOpC 3#28) := by decide

theorem test_decode_reservedOpD : decode 0xD0000004#32 {} = .ok (.reservedOpD 4#28) := by decide

theorem test_decode_reservedOpE : decode 0xE0000005#32 {} = .ok (.reservedOpE 5#28) := by decide

theorem test_decode_reservedOpF : decode 0xFFFFFFFF#32 {} = .ok (.reservedOpF 0xFFFFFFF#28) := by decide

-- E13v to E16v
theorem test_decode_rejects : decode 0x11000000#32 {} = .error .reservedField ∧
    decode 0x10000001#32 {} = .error .reservedField ∧ decode 0x30800001#32 {} = .error .reservedField ∧
    decode 0x50800012#32 {} = .error .reservedField ∧ decode 0x21000000#32 {} = .error .reservedField := by decide

/-- Decision D11's example parameters E1: P16_FIXED_LAST, 0, 0x07, 4, 0x0F, bit 3, HORIZONTAL, VERTICAL. -/
def layoutE1 : BankLayout := ⟨.p16FixedLast, 0, 0x07#8, 4, 0x0F#8⟩

/-- COMBINED with E1. -/
def combinedE1 : CombinedParams := ⟨layoutE1, some 3, .horizontal, .vertical⟩

/-- SUBMAPPER_POLARITY with E1, invertSubmapper 1. -/
def polarityE1 : PolarityParams := ⟨layoutE1, 3, .horizontal, .vertical, 1⟩

-- the variant field, tags 0 to 3 (spec R77), parameter values from spec R78
theorem test_decode_variants : decodeVariantRow { tag := 0 } = .ok .prg16LowSwitch ∧
    decodeVariantRow { tag := 1 } = .ok .chr8Switch ∧
    decodeVariantRow
      { tag := 2, prgMode := 0, prgShift := 0, prgMask := 0x07, chrShift := 4, chrMask := 0x0F, mirBit := some 3,
        mirLo := 0, mirHi := 1 } = .ok (.combined combinedE1) ∧
    decodeVariantRow
      { tag := 3, prgMode := 0, prgShift := 0, prgMask := 0x07, chrShift := 4, chrMask := 0x0F, mirBit := some 3,
        mirLo := 0, mirHi := 1 } = .ok (.submapperPolarity polarityE1) := by decide

-- the twelve reserved tags (spec R77)
theorem test_decode_reservedVariants : decodeTableWord 8 4 = some .reservedVariant4 ∧
    decodeTableWord 8 5 = some .reservedVariant5 ∧ decodeTableWord 8 6 = some .reservedVariant6 ∧
    decodeTableWord 8 7 = some .reservedVariant7 ∧ decodeTableWord 8 8 = some .reservedVariant8 ∧
    decodeTableWord 8 9 = some .reservedVariant9 ∧ decodeTableWord 8 10 = some .reservedVariant10 ∧
    decodeTableWord 8 11 = some .reservedVariant11 ∧ decodeTableWord 8 12 = some .reservedVariant12 ∧
    decodeTableWord 8 13 = some .reservedVariant13 ∧ decodeTableWord 8 14 = some .reservedVariant14 ∧
    decodeTableWord 8 15 = some .reservedVariant15 ∧ decodeTableWord 8 16 = none := by decide

-- illegal parameters: a shift of 8, mirLo 4, prgMode 2, mirBit 8, no mirBit for tag 3 (spec R78)
theorem test_decode_illegalParams : decodeVariant { tag := 2, prgShift := 8 } = .error .variantParams ∧
    decodeVariant { tag := 2, mirLo := 4 } = .error .variantParams ∧
    decodeVariant { tag := 2, prgMode := 2 } = .error .variantParams ∧
    decodeVariant { tag := 2, mirBit := some 8 } = .error .variantParams ∧
    decodeVariant { tag := 3 } = .error .variantParams := by decide

-- a sub-operation stands in its command's word (spec R76)
theorem test_encode_subOperations :
    encode (.latchWrite 0x8000#16 0x05#8) = .command 0x20800005#32 {} ∧
    encode (.wramWrite 0x6001#16 0xAB#8) = .command 0x206001AB#32 {} ∧
    encode (.ignoredWrite 0x0000#16 0x00#8) = .command 0x20000000#32 {} ∧
    encode (.wramRead 0x6000#16) = .command 0x30600000#32 {} ∧
    encode (.romRead 0xFFFC#16) = .command 0x30FFFC00#32 {} ∧
    encode (.unhandledRead 0x0000#16) = .command 0x30000000#32 {} := by decide

-- a variant's encoding gives its tag; a bank call has no encoding
theorem test_encode_variant : encode .chr8Switch = .variant { tag := 1 } ∧
    encode (.setPrg32 2) = .internal := by decide

-- a word from the opcode table runs as the very next step
theorem test_withFetchWord : (nextOf (step (State.reset.withFetchWord 32 0x60000000))).map State.fault =
      some (some ⟨.noInstance, 0x60000000#32, .nothing⟩) ∧
    (nextOf (step (State.reset.withFetchWord 8 1))).map State.response =
      some (some (.powerOn [.setPrg32 0, .setChr8 0] false)) ∧
    (nextOf (step (State.reset.withFetchWord 8 9))).map State.fault =
      some (some ⟨.configInvalid, 0x00000000#32, .check .variantTag⟩) := by decide

/-! ### Configurations and states of 95_test_vectors.md section 0 -/

/-- The INIT record of configuration A, with the bytes of ROM_U that the tests read. -/
def recA : CfgRecord :=
  { variant := { tag := 0 }, initLatch := 0x00, winLow := 0x8000, winHigh := 0xFFFF, needsWRAM := false,
    busConflict := false, submapper := 0, isExtended := false, declWram := 0, declBatteryWram := 0, battery := false,
    prgBanks16 := 8,
    prgRom := [(65536, 0x08), (81920, 0x0A), (98303, 0x0B), (114688, 0x0E), (131071, 0x0F)],
    headerMirroring := .vertical }

/-- Configuration A. -/
def cfgA : Cfg := { recA with variant := .prg16LowSwitch }

/-- Configuration B, with the bytes of ROM_M that the tests read. -/
def cfgB : Cfg := { cfgA with busConflict := true, prgRom := [(5, 0x05), (81923, 0xA3), (114688, 0xE0), (114703, 0xEF)] }

/-- The INIT record of configuration C. -/
def recC : CfgRecord :=
  { recA with variant := { tag := 1 }, needsWRAM := true, battery := true, prgBanks16 := 2,
              prgRom := [(24576, 0x03)], headerMirroring := .horizontal }

/-- Configuration C. -/
def cfgC : Cfg := { recC with variant := .chr8Switch }

/-- Configuration SP0 with submapper `n`; SP1 is the one with submapper 1. -/
def cfgSP (n : Nat) : Cfg := { cfgA with variant := .submapperPolarity polarityE1, submapper := n, headerMirroring := .horizontal }

/-- Configuration E: COMBINED E1, the latch window over the WRAM window. -/
def cfgE : Cfg :=
  { cfgA with variant := .combined combinedE1, initLatch := 0xFF, winLow := 0x6000, winHigh := 0x7FFF, needsWRAM := true,
              prgBanks16 := 4, prgRom := [(49152, 0x06)], headerMirroring := .horizontal }

/-- Configuration F, with the bytes of ROM_FF that the tests read. -/
def cfgF : Cfg := { cfgA with winLow := 0x6000, busConflict := true, prgRom := [(0, 0xFF)] }

/-- The parameters of configuration G. -/
def combinedG : CombinedParams := ⟨⟨.p32, 4, 0x03#8, 0, 0x0F#8⟩, none, .horizontal, .horizontal⟩

/-- Configuration G. -/
def cfgG : Cfg := { cfgA with variant := .combined combinedG }

/-- Right after INIT with `c`. -/
def unpowered (c : Cfg) : State := initState c State.reset

/-- Powered with `c`, after a Sync of `latch`. -/
def powered (c : Cfg) (latch : Byte) : State :=
  { unpowered c with life := .powered, latch := some latch, bank := syncedBank c latch }

/-- Closed with `c`. -/
def closedState (c : Cfg) : State := { unpowered c with life := .closed, wram := none }

/-- The state after executing `i`. -/
def after (i : Instr) (s : State) : Option State := nextOf (exec i s)

/-- CHR slots `c..c+7`. -/
def chrFrom (c : Nat) : ChrSlots :=
  ⟨some c, some (c + 1), some (c + 2), some (c + 3), some (c + 4), some (c + 5), some (c + 6), some (c + 7)⟩

/-- PRG slots by number. -/
def prgOf (a b c d : Nat) : PrgSlots := ⟨some a, some b, some c, some d⟩

/-! ### Commands -/

-- L1, L3
theorem test_init : after (.init (some recA)) State.reset = some { unpowered cfgA with response := some .unit } ∧
    (after (.init (some { recA with isExtended := true, declBatteryWram := 32768 })) State.reset).map State.wram =
      some (some []) := by decide

-- L4 (D13), L5, L6, L7, L8
theorem test_init_refused : bindRecord { recA with winLow := 0x9000, winHigh := 0x8FFF } = .error .windowOrder ∧
    bindRecord { recA with variant := { tag := 5 } } = .error .variantTag ∧
    bindRecord { recA with prgBanks16 := 0 } = .error .prgBanks ∧
    bindRecord { recA with variant := { tag := 2, prgShift := 8 } } = .error .variantParams ∧
    (after (.init (some { recA with declWram := 8192 })) State.reset).map State.wram = some none := by decide

-- L11, S3
theorem test_powerOn : (after .powerOn (unpowered cfgA)).map State.bank = some ⟨prgOf 0 1 14 15, chrFrom 0, .vertical⟩ ∧
    (after .powerOn (unpowered cfgE)).map (fun t => (t.latch, t.bank)) =
      some (some 0xFF, ⟨prgOf 14 15 6 7, chrFrom 120, .vertical⟩) := by decide

-- L12
theorem test_powerOn_twice : after .powerOn (powered cfgA 0) =
    some { powered cfgA 0 with fault := some ⟨.alreadyPowered, 0x10000000#32, .nothing⟩ } := by decide

-- L13, W1
theorem test_write : (after (.write 0x8000#16 0x01#8) (unpowered cfgA)).map State.fault =
      some (some ⟨.notPowered, 0x20800001#32, .nothing⟩) ∧
    (after (.write 0x8000#16 0x05#8) (powered cfgA 0)).map (fun t => (t.latch, t.bank.prg)) =
      some (some 0x05, prgOf 10 11 14 15) := by decide

-- RD1, RD5
theorem test_read : (after (.read 0x8000#16) (powered cfgA 0x05)).map State.response = some (some (.byte (some 0x0A))) ∧
    (after (.read 0x6000#16) (powered cfgA 0)).map State.response = some (some (.byte none)) := by decide +kernel

-- L15
theorem test_saveState : (after .saveState (powered cfgA 0x05)).map State.response =
    some (some (.snapshot 0x05 none)) := by decide

-- L16, L18
theorem test_loadState : (after (.loadState 0x03#8 none) (powered cfgA 0)).map (fun t => (t.latch, t.bank.prg)) =
      some (some 0x03, prgOf 6 7 14 15) ∧
    (after (.loadState 0x03#8 none) (powered cfgC 0)).map State.fault =
      some (some ⟨.snapshotShape, 0x50000003#32, .payloadLength none⟩) := by decide

-- L17, with a one-byte image
theorem test_loadState_noWram : (after (.loadState 0x03#8 (some [0#8])) (powered cfgA 0)).map State.fault =
    some (some ⟨.snapshotShape, 0x50000003#32, .payloadLength (some 1)⟩) := by decide

-- L26, L27
theorem test_close : (after .close (unpowered cfgC)).map (fun t => (t.life, t.wram)) = some (.closed, none) ∧
    (after .close (closedState cfgA)).map State.life = some .closed := by decide

-- L21, L23
theorem test_batteryLoad : (after (.batteryLoad (some [])) (unpowered cfgA)).map State.fault =
      some (some ⟨.noBattery, 0x70000000#32, .nothing⟩) ∧
    (after (.batteryLoad (some [])) (powered cfgA 0)).map State.fault =
      some (some ⟨.alreadyPowered, 0x70000000#32, .nothing⟩) := by decide

-- L25; L24's image has the byte of P3 line 5 at offset 1
theorem test_batterySave : (after .batterySave (powered cfgA 0)).map State.fault =
      some (some ⟨.noBattery, 0x80000000#32, .nothing⟩) ∧
    readByte [(1, 0xAB#8)] 1 = 0xAB#8 ∧ (toImage [(1, 0xAB#8)])[1]? = some 0xAB#8 := by decide +kernel

-- L31: a reserved opcode before the reserved-field and lifecycle checks
theorem test_reservedOp : (nextOf (runCommand ⟨0x91000000#32, {}⟩ State.reset)).map State.fault =
    some (some ⟨.illegalOp, 0x91000000#32, .nothing⟩) := by decide

-- L32: the reserved field before the lifecycle
theorem test_reservedField : (nextOf (runCommand ⟨0x21000000#32, {}⟩ (unpowered cfgA))).map State.fault =
    some (some ⟨.reservedField, 0x21000000#32, .nothing⟩) := by decide

-- L30
theorem test_sticky :
    nextOf (step { unpowered cfgA with fault := some ⟨.closed, 0#32, .nothing⟩, input := [⟨0x10000000#32, {}⟩] }) = none :=
  by decide

/-! ### Bus accesses -/

-- W5, W8: the ROM byte masks the value
theorem test_latchWrite_conflict : (after (.write 0x8005#16 0xFF#8) (powered cfgB 0)).map (fun t => (t.latch, t.bank.prg)) =
      some (some 0x05, prgOf 10 11 14 15) ∧
    (after (.latchWrite 0xC000#16 0x07#8) (powered cfgB 0)).map State.latch = some (some 0x00) := by decide

-- W6: the conflict byte is read under the bank map before the write
theorem test_latchWrite_order : (after (.latchWrite 0x8003#16 0xFF#8) (powered cfgB 0x05)).map
    (fun t => (t.latch, t.bank.prg)) = some (some 0xA3, prgOf 6 7 14 15) := by decide

-- W11
theorem test_latchWrite_unmapped : (after (.write 0x6000#16 0x01#8) (powered cfgF 0)).map State.fault =
    some (some ⟨.conflictUnmapped, 0x20600001#32, .addr 0x6000#16⟩) := by decide

-- W14, W13
theorem test_wramWrite : (after (.wramWrite 0x7FFF#16 0x5A#8) (powered cfgC 0)).map State.wram =
      some (some [(0x1FFF, 0x5A)]) ∧
    (after (.write 0x6001#16 0xAB#8) (powered cfgC 0)).map (fun t => (t.wram, t.response)) =
      some (some [(1, 0xAB)], some (.write true [])) := by decide

-- W15; W17: the latch window over WRAM
theorem test_ignoredWrite : (after (.ignoredWrite 0x6000#16 0x12#8) (powered cfgA 0)).map State.response =
      some (some (.write false [])) ∧
    after (.ignoredWrite 0x8000#16 0x12#8) (powered cfgA 0) = none := by decide

theorem test_overlap : (after (.write 0x6000#16 0x00#8) (powered cfgE 0xFF)).map (fun t => (t.latch, t.bank, t.wram)) =
    some (some 0x00, ⟨prgOf 0 1 6 7, chrFrom 0, .horizontal⟩, some []) := by decide

-- RD7, RD8
theorem test_wramRead : (after (.wramRead 0x6123#16) (powered cfgC 0)).map State.response =
      some (some (.byte (some 0x00))) ∧
    (after (.wramRead 0x6001#16) { powered cfgC 0 with wram := some [(1, 0xAB)] }).map State.response =
      some (some (.byte (some 0xAB))) := by decide

-- RD4, W3: bank 24 of a ROM of 16 units is unit 8
theorem test_romRead : (after (.romRead 0xFFFF#16) (powered cfgA 0x05)).map State.response =
      some (some (.byte (some 0x0F))) ∧
    (after (.romRead 0x8000#16) (powered cfgA 0x0C)).map State.response = some (some (.byte (some 0x08))) := by decide +kernel

-- RD6
theorem test_unhandledRead : (after (.unhandledRead 0x0000#16) (powered cfgA 0)).map State.response =
    some (some (.byte none)) := by decide

/-! ### Sync variants -/

-- V1b, V1d
theorem test_prg16LowSwitch : (after .prg16LowSwitch (powered cfgA 0x0F)).map State.bank =
      some ⟨prgOf 30 31 14 15, chrFrom 0, .vertical⟩ ∧
    decodeCalls .prg16LowSwitch 0xFF 0 16 = [.setPrg16 0x8000 15, .setPrg16 0xC000 15, .setChr8 0] := by decide

-- V2b
theorem test_chr8Switch : (after .chr8Switch (powered cfgC 0xFF)).map State.bank =
    some ⟨prgOf 0 1 2 3, chrFrom 2040, .horizontal⟩ := by decide

-- V3c, V3d
theorem test_combined : decodeCalls (.combined combinedE1) 0xF7 0 8 =
      [.setPrg16 0x8000 7, .setPrg16 0xC000 7, .setChr8 15, .setMirror .horizontal] ∧
    (after (.combined combinedG) (powered cfgG 0x21)).map State.bank =
      some ⟨prgOf 8 9 10 11, chrFrom 8, .vertical⟩ := by decide

-- V4a, V4b
theorem test_submapperPolarity : (after (.submapperPolarity polarityE1) (powered (cfgSP 0) 0x88)).map State.bank =
      some ⟨prgOf 0 1 14 15, chrFrom 64, .vertical⟩ ∧
    (after (.submapperPolarity polarityE1) (powered (cfgSP 1) 0x88)).map State.bank =
      some ⟨prgOf 0 1 14 15, chrFrom 64, .horizontal⟩ := by decide

-- V4e: a submapper other than invertSubmapper has normal polarity
theorem test_submapperPolarity_other : decodeCalls (.submapperPolarity polarityE1) 0x88 2 8 =
    [.setPrg16 0x8000 0, .setPrg16 0xC000 7, .setChr8 8, .setMirror .vertical] := by decide

-- spec R176, after INIT's lifecycle check (spec R204)
theorem test_reservedVariant : (after .reservedVariant4 State.reset).map State.fault =
      some (some ⟨.configInvalid, 0#32, .check .variantTag⟩) ∧
    (after .reservedVariant15 (closedState cfgA)).map State.fault = some (some ⟨.closed, 0#32, .nothing⟩) := by decide

/-! ### Bank calls, B1 to B9 -/

theorem test_setPrg8 : (after (.setPrg8 0xA000#16 9) (powered cfgA 0)).map (·.bank.prg) = some (prgOf 0 9 14 15) ∧
    (after (.setPrg8 0xE000#16 0) (powered cfgA 0)).map (·.bank.prg) = some (prgOf 0 1 14 0) := by decide

theorem test_setPrg16 : (after (.setPrg16 0x8000#16 5) (powered cfgC 0)).map (·.bank.prg) = some (prgOf 10 11 2 3) ∧
    (after (.setPrg16 0xC000#16 7) (powered cfgC 0)).map (·.bank.prg) = some (prgOf 0 1 14 15) := by decide

theorem test_setPrg32 : (after (.setPrg32 2) (powered cfgA 0)).map (·.bank.prg) = some (prgOf 8 9 10 11) := by decide

theorem test_setChr1 : (after (.setChr1 0x1C00#16 5) (powered cfgA 0)).map (·.bank.chr) =
    some { chrFrom 0 with s7 := some 5 } := by decide

theorem test_setChr4 : (after (.setChr4 0x1000#16 3) (powered cfgA 0)).map (·.bank.chr) =
    some ⟨some 0, some 1, some 2, some 3, some 12, some 13, some 14, some 15⟩ := by decide

theorem test_setChr8 : (after (.setChr8 3) (powered cfgA 0)).map (·.bank.chr) = some (chrFrom 24) := by decide

theorem test_setMirror : (after (.setMirror .singleB) (powered cfgA 0)).map (·.bank.mirror) = some .singleB := by decide

/-! ### Derived state and the assembler -/

-- spec R54: with WRAM three handlers before the latch's; spec R103: C registers three regions
theorem test_handlerTable : handlerTable (powered cfgC 0) = [⟨.read, 0x6000, 0x7FFF, .wram⟩, ⟨.write, 0x6000, 0x7FFF, .wram⟩,
      ⟨.read, 0x8000, 0xFFFF, .rom⟩, ⟨.write, 0x8000, 0xFFFF, .latch⟩] ∧ handlerTable (unpowered cfgC) = [] := by decide

-- E4v, E7v; a data byte of three digits is no data byte
theorem test_assembler : assembleLine ⟨none, []⟩ "write $FFFF, #$F3".toList = some ⟨0x20FFFFF3#32, {}⟩ ∧
    assembleLine ⟨none, []⟩ "load_state #$12".toList = some ⟨0x50000012#32, {}⟩ ∧
    assembleLine ⟨none, []⟩ "write $8000, #$105".toList = none := by decide

/-! ### Witnesses: for each obligation with hypotheses, a state and operands that meet them, clause by clause -/

/-- `c`'s record lists its ROM canonically, and `c` is legal. -/
theorem witness_cfgA_legal : CfgLegal cfgA := ⟨by decide, by decide, by decide⟩

theorem witness_cfgC_legal : CfgLegal cfgC := ⟨by decide, by decide, by decide⟩

theorem witness_unpoweredA_inv : (unpowered cfgA).Inv :=
  ⟨⟨witness_cfgA_legal, ⟨by decide, fun _ h => nomatch h⟩, rfl, rfl⟩, fun _ h => nomatch h⟩

theorem witness_poweredA_inv : (powered cfgA 0).Inv :=
  ⟨⟨witness_cfgA_legal, ⟨by decide, fun _ h => nomatch h⟩, 0, rfl, rfl⟩, fun _ h => nomatch h⟩

theorem witness_poweredC_inv : (powered cfgC 0).Inv :=
  ⟨⟨witness_cfgC_legal, ⟨by decide, fun m h => by cases h; exact ⟨zeros_wf, zeros_below _⟩⟩, 0, rfl, rfl⟩,
    fun _ h => nomatch h⟩

theorem witness_closedA_inv : (closedState cfgA).Inv :=
  ⟨⟨witness_cfgA_legal, rfl, .inl ⟨rfl, rfl⟩⟩, fun _ h => nomatch h⟩

/-- Reset with INIT of `recA` delivered. -/
def initDelivered : State := { State.reset with input := [⟨0x00000000#32, { cfg := some recA }⟩] }

theorem witness_initDelivered_inv : initDelivered.Inv :=
  ⟨⟨rfl, rfl, _, rfl⟩, fun c h r hr => by
    have h : c = ⟨0x00000000#32, { cfg := some recA }⟩ := by simpa [initDelivered] using h
    subst h
    cases hr
    exact witness_cfgA_legal.2.2⟩

/-- `s` with one word delivered. -/
def deliver (w : CmdWord) (s : State) : State := { s with input := [⟨w, {}⟩] }

theorem witness_EncodeInvertsDecode : decode 0x20800005#32 {} = .ok (.write 0x8000#16 0x05#8) ∧
    decode 0xF0000001#32 {} = .ok (.reservedOpF 1#28) := by decide

theorem witness_UnusedFieldsMustBeZero : (opField 0x00000000#32).toNat ≤ 8 ∧ (opField 0x81000000#32).toNat ≤ 8 ∧
    decode 0x81000000#32 {} = .error .reservedField := by decide

theorem witness_ReservedOpcodesRaiseIllegalOp : 9 ≤ (opField 0x90000000#32).toNat ∧
    9 ≤ (opField 0xFFFFFFFF#32).toNat := by decide

theorem witness_RecordBindsExactlyWhenLegal : bindRecord recA = .ok cfgA ∧
    bindRecord { recA with winLow := 0xFFFF } = .ok { cfgA with winLow := 0xFFFF } ∧
    (∃ c, bindRecord { recA with
      variant := { tag := 3, prgMode := 1, prgShift := 7, chrShift := 7, mirBit := some 7, mirLo := 3, mirHi := 3 } } =
        .ok c) := ⟨by decide, by decide, _, rfl⟩

theorem witness_StepRunsTheDecodedCommand : (deliver 0x60000000#32 State.reset).fault = none ∧
    (deliver 0x60000000#32 State.reset).input = [⟨0x60000000#32, {}⟩] ∧
    decode 0x60000000#32 {} = .ok .close ∧ decode 0x61000000#32 {} = .error .reservedField := by decide

theorem witness_FaultingCommandChangesOnlyTheRecord :
    (∃ t, step (deliver 0x60000000#32 State.reset) = .next t ∧ t.fault ≠ none) ∧
    (faultedState .noInstance 0x60000000#32 .nothing State.reset).fault ≠ none := ⟨⟨_, rfl, by decide⟩, by decide⟩

theorem witness_EveryCommandHasAnOutcome : initDelivered.Inv ∧ initDelivered.fault = none ∧
    initDelivered.input = [⟨0x00000000#32, { cfg := some recA }⟩] := ⟨witness_initDelivered_inv, rfl, rfl⟩

theorem witness_StepKeepsTheSessionInvariant : initDelivered.Inv ∧
    (nextOf (step initDelivered)).map State.life = some .unpowered := ⟨witness_initDelivered_inv, by decide⟩

theorem witness_LifecycleCheckFaults : State.reset.life = .absent ∧ (unpowered cfgA).life = .unpowered ∧
    (powered cfgA 0).life = .powered ∧ (closedState cfgA).life = .closed := by decide

theorem witness_LifeChangesOnlyByItsTransitions : (after .close (powered cfgA 0)).map State.life = some .closed ∧
    (after .powerOn (unpowered cfgA)).map State.life = some .powered := by decide

theorem witness_ConfigurationIsWrittenOnceAtInit : initDelivered.Inv ∧
    ∃ t, step initDelivered = .next t ∧ t.cfg ≠ initDelivered.cfg := ⟨witness_initDelivered_inv, _, rfl, by decide⟩

-- a write at each end of the latch window
theorem witness_OnlySyncPointsChangeLatchAndBankMap :
    (∃ t, step (deliver 0x20800005#32 (powered cfgA 0)) = .next t ∧ t.latch ≠ some 0x00#8) ∧
    (∃ t, step (deliver 0x20FFFF05#32 (powered cfgA 0)) = .next t ∧ t.bank ≠ (powered cfgA 0).bank) :=
  ⟨⟨_, rfl, by decide⟩, _, rfl, by decide⟩

-- a write at each end of the WRAM window, and CLOSE
theorem witness_OnlyNamedCommandsChangeWram :
    (∃ t, step (deliver 0x20600005#32 (powered cfgC 0)) = .next t ∧ t.wram ≠ (powered cfgC 0).wram) ∧
    (∃ t, step (deliver 0x207FFF05#32 (powered cfgC 0)) = .next t ∧ t.wram ≠ (powered cfgC 0).wram) ∧
    (∃ t, step (deliver 0x60000000#32 (powered cfgC 0)) = .next t ∧ t.wram ≠ (powered cfgC 0).wram) :=
  ⟨⟨_, rfl, by decide⟩, ⟨_, rfl, by decide⟩, _, rfl, by decide⟩

theorem witness_InitBindsOrRefuses : State.reset.life = .absent ∧ bindRecord recC = .ok cfgC ∧
    bindRecord { recA with prgBanks16 := 0 } = .error .prgBanks := by decide

theorem witness_ReservedVariantTagsAreRefused : State.reset.life = .absent ∧
    4 ≤ (VariantRecord.mk 4 0 0 0 0 0 none 0 0 1).tag.toNat ∧ 4 ≤ (VariantRecord.mk 15 0 0 0 0 0 none 0 0 1).tag.toNat ∧
    recA.winLow ≤ recA.winHigh ∧ 1 ≤ recA.prgBanks16 := by decide

theorem witness_InitAllocatesFixedZeroedWram : State.reset.life = .absent ∧ bindRecord recC = .ok cfgC ∧
    cfgC.hasWram = true ∧ bindRecord { recC with declWram := 1, declBatteryWram := 2 } =
      .ok { cfgC with declWram := 1, declBatteryWram := 2 } ∧
    ({ cfgC with declWram := 1, declBatteryWram := 2 } : Cfg).hasWram = true := by decide

theorem witness_PowerOnResetsLatchThenSyncs : (unpowered cfgE).life = .unpowered ∧ (unpowered cfgE).cfg = some cfgE := by
  decide

theorem witness_StateSaveAnswersTheSnapshot : (powered cfgA 0x05).life = .powered ∧ (powered cfgA 0x05).cfg = some cfgA ∧
    (powered cfgA 0x05).latch = some 0x05 ∧ cfgA.hasWram = false ∧
    (powered cfgC 0x05).life = .powered ∧ (powered cfgC 0x05).cfg = some cfgC ∧ (powered cfgC 0x05).latch = some 0x05 ∧
    cfgC.hasWram = true ∧ (powered cfgC 0x05).wram = some [] := by decide

theorem witness_StateLoadRestoresThenSyncs : (powered cfgC 0).life = .powered ∧ (powered cfgC 0).cfg = some cfgC ∧
    cfgC.hasWram = true ∧ (List.replicate 8192 0x42#8).length = 8192 ∧ cfgA.hasWram = false ∧
    (powered cfgA 0).life = .powered ∧ (powered cfgA 0).cfg = some cfgA :=
  ⟨rfl, rfl, rfl, List.length_replicate, rfl, rfl, rfl⟩

theorem witness_SnapshotRoundTripsThroughAFreshInstance : Memory.wf [(0, 0x12#8), (0x1FFF, 0x34#8)] ∧
    Memory.below 8192 [(0, 0x12#8), (0x1FFF, 0x34#8)] ∧ cfgC.hasWram = true ∧ (powered cfgC 0).life = .powered ∧
    ({ powered cfgC 0 with wram := some [(0, 0x12#8), (0x1FFF, 0x34#8)] } : State).cfg = some cfgC := by decide

theorem witness_CloseReleasesWramAndIsIdempotent : (unpowered cfgC).life ≠ .absent ∧ (powered cfgC 0).life ≠ .absent ∧
    (closedState cfgA).life ≠ .absent := by decide

theorem witness_BatteryLoadFillsWram : (unpowered cfgC).life = .unpowered ∧ (unpowered cfgC).cfg = some cfgC ∧
    cfgC.batterySave = true ∧ (List.replicate 8192 0x42#8).length = 8192 := ⟨rfl, rfl, rfl, List.length_replicate⟩

theorem witness_BatterySaveAnswersTheImage : (powered cfgC 0).life = .powered ∧ (unpowered cfgC).life = .unpowered ∧
    (powered cfgC 0).cfg = some cfgC ∧ cfgC.batterySave = true ∧ (powered cfgC 0).wram = some [] ∧
    (unpowered cfgC).wram = some [] := by decide

theorem witness_BatteryImageRoundTrips : (unpowered cfgC).life = .unpowered ∧ (unpowered cfgC).cfg = some cfgC ∧
    cfgC.batterySave = true ∧ (List.replicate 8192 0x42#8).length = 8192 := witness_BatteryLoadFillsWram

-- C and no image; A and an image; A's battery; C and an image one byte long, or one byte short of 8192
theorem witness_ImagesOfWrongShapeAreRefused : (powered cfgC 0).cfg = some cfgC ∧ cfgC.hasWram = true ∧
    ([0x00#8] : Image).length ≠ 8192 ∧ (List.replicate 8191 0x00#8).length ≠ 8192 ∧ (powered cfgA 0).cfg = some cfgA ∧
    cfgA.hasWram = false ∧ (unpowered cfgA).life = .unpowered ∧ cfgA.batterySave = false ∧
    (unpowered cfgC).life = .unpowered ∧ cfgC.batterySave = true :=
  ⟨rfl, rfl, by decide, by rw [List.length_replicate]; decide, rfl, rfl, rfl, rfl, rfl, rfl⟩

-- C: both ends of the latch window, both ends of the WRAM window, and 0x5FFF; E: the windows coincide
theorem witness_WritesAreDispatchedByAddress : classifyWrite cfgC 0x8000#16 = .latch ∧
    classifyWrite cfgC 0xFFFF#16 = .latch ∧ classifyWrite cfgC 0x6000#16 = .wram ∧ classifyWrite cfgC 0x7FFF#16 = .wram ∧
    classifyWrite cfgC 0x5FFF#16 = .ignored ∧ classifyWrite cfgE 0x6000#16 = .latch ∧
    classifyWrite cfgE 0x8000#16 = .ignored ∧ (powered cfgC 0).cfg = some cfgC ∧ (powered cfgC 0).life = .powered := by
  decide

theorem witness_ReadsAreDispatchedByAddress : classifyRead cfgC 0x6000#16 = .wram ∧ classifyRead cfgC 0x7FFF#16 = .wram ∧
    classifyRead cfgC 0x8000#16 = .rom ∧ classifyRead cfgC 0xFFFF#16 = .rom ∧ classifyRead cfgC 0x5FFF#16 = .unhandled ∧
    classifyRead cfgA 0x7FFF#16 = .unhandled ∧ classifyRead cfgE 0x6000#16 = .wram := by decide

-- without bus conflicts at both ends of the window; with them, W5's ROM byte
theorem witness_LatchWriteStoresTheEffectiveValue : (powered cfgA 0).life = .powered ∧ (powered cfgA 0).cfg = some cfgA ∧
    cfgA.winLow ≤ 0x8000#16 ∧ 0xFFFF#16 ≤ cfgA.winHigh ∧ cfgA.busConflict = false ∧
    (powered cfgB 0).life = .powered ∧ (powered cfgB 0).cfg = some cfgB ∧ cfgB.winLow ≤ 0x8005#16 ∧
    0x8005#16 ≤ cfgB.winHigh ∧ cfgB.busConflict = true ∧ 0x8000#16 ≤ 0x8005#16 ∧
    romByte cfgB (powered cfgB 0).bank 0x8005#16 = some 0x05#8 ∧ 0x05#8 = 0xFF#8 &&& 0x05#8 := by decide

-- F at both ends of the window outside ROM; B, whose window lies in ROM: a write outside it, and a fault that is another
theorem witness_ConflictedWriteOutsideRomFaults : (powered cfgF 0).life = .powered ∧ (powered cfgF 0).cfg = some cfgF ∧
    cfgF.winLow ≤ 0x6000#16 ∧ 0x7FFF#16 ≤ cfgF.winHigh ∧ cfgF.busConflict = true ∧ ¬ 0x8000#16 ≤ 0x7FFF#16 ∧
    (unpowered cfgB).cfg = some cfgB ∧ 0x8000#16 ≤ cfgB.winLow ∧ (unpowered cfgB).fault = none ∧
    (after (.write 0x7FFF#16 0x01#8) (unpowered cfgB)).map State.fault =
      some (some ⟨.notPowered, 0x207FFF01#32, .nothing⟩) ∧
    (after (.latchWrite 0x8000#16 0x01#8) { powered cfgB 0 with bank := BankMap.initial .vertical }).map State.fault =
      some (some ⟨.notPowered, 0x20800001#32, .addr 0x8000#16⟩) := by decide

theorem witness_DecodeInvertsEncode : encode (.setMirror .singleB) = .internal ∧
    encode .powerOn = .command 0x10000000#32 {} := by decide

theorem witness_WramWriteStoresOneByte : (powered cfgC 0).life = .powered ∧ (powered cfgC 0).cfg = some cfgC ∧
    cfgC.hasWram = true ∧ ¬ (cfgC.winLow ≤ 0x6000#16 ∧ 0x6000#16 ≤ cfgC.winHigh) ∧
    ¬ (cfgC.winLow ≤ 0x7FFF#16 ∧ 0x7FFF#16 ≤ cfgC.winHigh) ∧ (powered cfgC 0).wram = some [] ∧ Memory.wf [] := by decide

theorem witness_IgnoredWriteChangesNothing : (powered cfgA 0).life = .powered ∧ (powered cfgA 0).cfg = some cfgA ∧
    ¬ (cfgA.winLow ≤ 0x7FFF#16 ∧ 0x7FFF#16 ≤ cfgA.winHigh) ∧ cfgA.hasWram = false ∧
    ¬ (cfgC.winLow ≤ 0x5FFF#16 ∧ 0x5FFF#16 ≤ cfgC.winHigh) ∧
    ¬ (cfgC.hasWram = true ∧ 0x6000#16 ≤ 0x5FFF#16 ∧ 0x5FFF#16 ≤ 0x7FFF#16) := by decide

theorem witness_WramReadAnswersTheByte : (powered cfgE 0).life = .powered ∧ (powered cfgE 0).cfg = some cfgE ∧
    cfgE.hasWram = true ∧ 0x6000#16 ≤ 0x7FFF#16 ∧ (powered cfgE 0).wram = some [] := by decide

-- slot 0 and slot 3
theorem witness_RomReadAnswersTheMappedByte : (powered cfgA 0x05).life = .powered ∧ (powered cfgA 0x05).cfg = some cfgA ∧
    prgGet (powered cfgA 0x05).bank.prg (((0x8000#16).toNat - 0x8000) / 8192) = some 10 ∧
    prgGet (powered cfgA 0x05).bank.prg (((0xFFFF#16).toNat - 0x8000) / 8192) = some 15 := by decide

theorem witness_UnhandledReadAnswersNone : (powered cfgA 0).life = .powered ∧ (powered cfgA 0).cfg = some cfgA ∧
    ¬ 0x8000#16 ≤ 0x7FFF#16 ∧ cfgA.hasWram = false ∧
    ¬ (cfgC.hasWram = true ∧ 0x6000#16 ≤ 0x5FFF#16 ∧ 0x5FFF#16 ≤ 0x7FFF#16) := by decide

theorem witness_ReadsHaveNoSideEffect : (powered cfgC 0).Inv ∧ (powered cfgC 0).life = .powered :=
  ⟨witness_poweredC_inv, rfl⟩

theorem witness_SubOperationsStopOutsideTheirAddresses : (powered cfgC 0).life = .powered ∧
    (powered cfgC 0).cfg = some cfgC ∧ classifyWrite cfgC 0x7FFF#16 ≠ .latch ∧ classifyWrite cfgC 0x8000#16 ≠ .wram ∧
    classifyWrite cfgC 0x6000#16 ≠ .ignored ∧ classifyRead cfgC 0x8000#16 ≠ .wram ∧ classifyRead cfgC 0x7FFF#16 ≠ .rom ∧
    classifyRead cfgC 0x6000#16 ≠ .unhandled := by decide

theorem witness_HandlerTableGivesTheClassification : (powered cfgC 0).life = .powered ∧
    (powered cfgC 0).cfg = some cfgC ∧ (unpowered cfgC).life ≠ .powered ∧
    handlerFor (handlerTable (powered cfgE 0)) .write 0x6000#16 = some .latch ∧
    handlerFor (handlerTable (powered cfgE 0)) .read 0x6000#16 = some .wram := by decide

theorem witness_RegistrationsFollowTheConfiguration : (unpowered cfgC).life = .unpowered ∧
    (unpowered cfgC).cfg = some cfgC ∧ (powered cfgA 0).life = .powered ∧ (powered cfgA 0).cfg = some cfgA ∧
    State.reset.life = .absent ∧ (closedState cfgA).life = .closed := by decide

theorem witness_RestoreMatchesTheLiveWrite : (powered cfgB 0).life = .powered ∧ (powered cfgB 0).cfg = some cfgB ∧
    cfgB.winLow ≤ 0x8005#16 ∧ 0x8005#16 ≤ cfgB.winHigh ∧
    (powered cfgB 0).wram = (if cfgB.hasWram then some [] else none) ∧ cfgB.busConflict = true ∧
    romByte cfgB (powered cfgB 0).bank 0x8005#16 = some 0x05#8 ∧
    (powered cfgC 0).wram = (if cfgC.hasWram then some [] else none) ∧ cfgC.busConflict = false ∧
    (powered cfgC 0).cfg = some cfgC := by decide

theorem witness_SyncKeepsNoHistory : (BankMap.initial .vertical).mirror = (powered cfgA 0).bank.mirror := by decide

-- one configuration for each variant
theorem witness_VariantRowsAreWhatSyncRuns : (powered cfgA 0).cfg = some cfgA ∧ (powered cfgA 0).latch = some 0 ∧
    (powered cfgC 0xFF).cfg = some cfgC ∧ (powered cfgC 0xFF).latch = some 0xFF ∧
    (powered cfgG 0x21).cfg = some cfgG ∧ (powered cfgG 0x21).latch = some 0x21 ∧
    (powered (cfgSP 1) 0x88).cfg = some (cfgSP 1) ∧ (powered (cfgSP 1) 0x88).latch = some 0x88 := by decide

theorem witness_Prg16LowSwitchMapsTheLowNibble : (powered cfgA 0xF5).cfg = some cfgA ∧
    (powered cfgA 0xF5).latch = some 0xF5 := by decide

theorem witness_Chr8SwitchMapsTheWholeLatch : (powered cfgC 0xFF).cfg = some cfgC ∧
    (powered cfgC 0xFF).latch = some 0xFF := by decide

-- with and without a mirroring bit
theorem witness_CombinedMapsItsBitGroups : (powered cfgE 0xFF).cfg = some cfgE ∧ (powered cfgE 0xFF).latch = some 0xFF ∧
    cfgE.variant = .combined combinedE1 ∧ combinedE1.mirBit = some 3 ∧ (powered cfgG 0x21).cfg = some cfgG ∧
    (powered cfgG 0x21).latch = some 0x21 ∧ combinedG.mirBit = none := by decide

theorem witness_SubmapperPolarityFlipsTheMirroringBit : (powered (cfgSP 0) 0x88).cfg = some (cfgSP 0) ∧
    (powered (cfgSP 0) 0x88).latch = some 0x88 ∧ (cfgSP 0).submapper ≠ polarityE1.invertSubmapper ∧
    (powered (cfgSP 1) 0x88).cfg = some (cfgSP 1) ∧ (powered (cfgSP 1) 0x88).latch = some 0x88 ∧
    (cfgSP 1).submapper = polarityE1.invertSubmapper := by decide

-- windows next to the named ones
theorem witness_PrgBankCallsWriteTheirSlots : 0x8001#16 ≠ 0x8000#16 ∧ 0x8001#16 ≠ 0xA000#16 ∧ 0x8001#16 ≠ 0xC000#16 ∧
    0x8001#16 ≠ 0xE000#16 ∧ 0xA000#16 ≠ 0x8000#16 ∧ 0xA000#16 ≠ 0xC000#16 := by decide

theorem witness_ChrBankCallsWriteTheirSlots : 0 < 8 ∧ 7 < 8 ∧ (∀ j, j < 8 → 0x2000#16 ≠ BitVec.ofNat 16 (0x400 * j)) ∧
    0x0400#16 ≠ 0x0000#16 ∧ 0x0400#16 ≠ 0x1000#16 := by decide

theorem witness_MirroringStaysAtTheHeaderWithoutAMirrorCall : (powered cfgA 0).Inv ∧ (powered cfgA 0).cfg = some cfgA ∧
    cfgA.variant = .prg16LowSwitch ∧ (powered cfgC 0).Inv ∧ (powered cfgC 0).cfg = some cfgC ∧
    cfgC.variant = .chr8Switch ∧ (powered cfgG 0).Inv ∧ cfgG.variant = .combined combinedG ∧ combinedG.mirBit = none :=
  ⟨witness_poweredA_inv, rfl, rfl, witness_poweredC_inv, rfl, rfl,
    ⟨⟨⟨by decide, by decide, by decide⟩, ⟨by decide, fun _ h => nomatch h⟩, 0, rfl, rfl⟩, fun _ h => nomatch h⟩, rfl, rfl⟩

theorem witness_SyncIssuesCallsAtNamedWindows : BankCall.setPrg16 0xC000#16 7 ∈ syncCalls cfgA 0x05#8 ∧
    BankCall.setMirror .vertical ∈ syncCalls cfgE 0xFF#8 := by decide

theorem witness_PoweredSlotsHoldBankNumbers : (powered cfgA 0).Inv ∧ (powered cfgA 0).life = .powered ∧
    (powered cfgA 0).cfg = some cfgA ∧ 3 < 4 ∧ 0x8000#16 ≤ 0xFFFF#16 :=
  ⟨witness_poweredA_inv, rfl, rfl, by decide, by decide⟩

-- a configuration for each clause, a mode P16_FIXED_LAST and a mode P32
theorem witness_ResetVectorSlotFollowsTheVariant : cfgA.variant = .prg16LowSwitch ∧ cfgC.variant = .chr8Switch ∧
    cfgE.variant = .combined combinedE1 ∧ combinedE1.layout.prgMode = .p16FixedLast ∧
    (cfgSP 0).variant = .submapperPolarity polarityE1 ∧ polarityE1.layout = layoutE1 ∧
    cfgG.variant = .combined combinedG ∧ combinedG.layout.prgMode = .p32 := by decide

-- W5: 0x05 AND 0xFF is not 0xFF; a value 0x05 there is safe; F: a ROM byte of 0xFF
theorem witness_BusConflictHazard : (powered cfgB 0).life = .powered ∧ (powered cfgB 0).cfg = some cfgB ∧
    cfgB.busConflict = true ∧ cfgB.winLow ≤ 0x8005#16 ∧ 0x8005#16 ≤ cfgB.winHigh ∧
    romByte cfgB (powered cfgB 0).bank 0x8005#16 = some 0x05#8 ∧ ¬ 0x05#8 &&& 0xFF#8 = 0xFF#8 ∧
    0x05#8 &&& 0x05#8 = 0x05#8 ∧ romByte cfgF (powered cfgF 0).bank 0x8000#16 = some 0xFF#8 := by decide

theorem witness_OverlapOfLatchAndWramWindows : (powered cfgE 0).life = .powered ∧ (powered cfgE 0).cfg = some cfgE ∧
    cfgE.hasWram = true ∧ cfgE.busConflict = false ∧ cfgE.winLow ≤ 0x6000#16 ∧ 0x7FFF#16 ≤ cfgE.winHigh ∧
    (powered cfgE 0).wram = some [] := by decide

end Sys2Proof.Tests
end

section
/-! PROOFS. What a command word decodes to: the instruction's word is that word, and the instruction is a command of its
own, neither a sub-operation nor a row without a command word (spec R70 to R73, R76). -/

namespace Sys2Proof

open Sys2Proof.Laws

/-- An instruction that a command word stands for by itself: its encoding is its command word, and it is no
sub-operation of another command. These are the nine commands and the seven reserved opcodes. -/
def Instr.IsCommand (i : Instr) : Prop := encode i = .command i.word i.payload ∧ i.command = i

/-- Only the bank calls restrict an operand, and they have no encoding. -/
theorem wellFormed_of_encoded {i : Instr} (h : encode i ≠ .internal) : i.wellFormed = true := by
  cases i with
  | setPrg8 | setPrg16 | setChr1 | setChr4 => exact absurd rfl h
  | _ => rfl

namespace Instr.IsCommand

theorem encoded {i : Instr} (h : i.IsCommand) : encode i ≠ .internal := by simp [h.1]

theorem wellFormed {i : Instr} (h : i.IsCommand) : i.wellFormed = true := wellFormed_of_encoded h.encoded

end Instr.IsCommand

theorem fieldsOk_eq_ok {ok : Bool} {i j : Instr} (h : fieldsOk ok i = .ok j) : ok = true ∧ i = j := by
  cases ok <;> simp_all [fieldsOk]

/-- A word with `RSV` 0 is the one assembled from the values of its other fields. -/
theorem assembleWord_eq {w : CmdWord} {op : BitVec 4} {a : Addr} {d : Byte} (hop : (opField w).toNat = op.toNat)
    (hr : rsvField w = 0) (ha : addrField w = a) (hd : dataField w = d) : assembleWord op a d = w := by
  rw [← BitVec.eq_of_toNat_eq hop, ← ha, ← hd, assembleWord_fields w hr]

theorem reservedWord_eq {w : CmdWord} {op : BitVec 4} (hop : (opField w).toNat = op.toNat) :
    reservedWord op (restField w) = w := by
  rw [← BitVec.eq_of_toNat_eq hop, reservedWord_fields]

/-- A word that decodes to `i` is `i`'s command word: no bit of an accepted word is dropped. -/
theorem word_of_decode {w : CmdWord} {p : Payload} {i : Instr} (h : decode w p = .ok i) : i.word = w := by
  unfold decode at h
  split at h
  case h_1 hop | h_2 hop | h_5 hop | h_7 hop | h_8 hop | h_9 hop =>
    obtain ⟨hf, rfl⟩ := fieldsOk_eq_ok h
    simp only [Bool.and_eq_true, beq_iff_eq, and_assoc] at hf
    obtain ⟨hr, ha, hd⟩ := hf
    exact assembleWord_eq hop hr ha hd
  case h_3 hop =>
    obtain ⟨hr, rfl⟩ := fieldsOk_eq_ok h
    exact assembleWord_eq hop (by simpa using hr) rfl rfl
  case h_4 hop =>
    obtain ⟨hf, rfl⟩ := fieldsOk_eq_ok h
    simp only [Bool.and_eq_true, beq_iff_eq] at hf
    exact assembleWord_eq hop hf.1 rfl hf.2
  case h_6 hop =>
    obtain ⟨hf, rfl⟩ := fieldsOk_eq_ok h
    simp only [Bool.and_eq_true, beq_iff_eq] at hf
    exact assembleWord_eq hop hf.1 hf.2 rfl
  case h_10 hop | h_11 hop | h_12 hop | h_13 hop | h_14 hop | h_15 hop =>
    cases h
    exact reservedWord_eq hop
  case h_16 =>
    cases h
    have hlt := (opField w).isLt
    simp only [imp_false] at *
    exact reservedWord_eq (op := 0xF) (by change _ = 15; omega)

/-- A command word decodes to commands only: never to a sub-operation, a variant or a bank call. -/
theorem isCommand_of_decode {w : CmdWord} {p : Payload} {i : Instr} (h : decode w p = .ok i) : i.IsCommand := by
  unfold decode at h
  split at h
  case h_1 | h_2 | h_3 | h_4 | h_5 | h_6 | h_7 | h_8 | h_9 =>
    obtain ⟨-, rfl⟩ := fieldsOk_eq_ok h
    exact ⟨rfl, rfl⟩
  case h_10 | h_11 | h_12 | h_13 | h_14 | h_15 | h_16 =>
    cases h
    exact ⟨rfl, rfl⟩

end Sys2Proof
end

section
/-! PROOFS. The frame of an instruction and of a step: what every instruction leaves of the fault record, the delivered
queue and the response, and the two ways a step runs its command (spec R12, R201, R202). -/

namespace Sys2Proof.Machine

/-- An instruction that does not fault records none and leaves the queue; it answers a response unless it is a bank
call, whose response is its caller's (assumption log 10). -/
theorem effect_frame {i : Instr} {s t : State} (h : Effect i s t) :
    t.fault = s.fault ∧ t.input = s.input ∧ (encode i ≠ .internal → t.response ≠ none) := by
  cases i with
  | init =>
    obtain ⟨-, x, c, -, -, rfl⟩ := h
    exact ⟨rfl, rfl, nofun⟩
  | powerOn =>
    obtain ⟨-, c, -, rfl⟩ := h
    exact ⟨rfl, rfl, nofun⟩
  | write =>
    obtain ⟨-, c, -, ⟨-, eff, -, rfl⟩ | ⟨-, m, -, rfl⟩ | ⟨-, rfl⟩⟩ := h <;> exact ⟨rfl, rfl, nofun⟩
  | read =>
    obtain ⟨-, c, b, -, rfl⟩ := h
    exact ⟨rfl, rfl, nofun⟩
  | saveState =>
    obtain ⟨-, c, latch, img, -, -, rfl⟩ := h
    exact ⟨rfl, rfl, nofun⟩
  | loadState =>
    obtain ⟨-, c, -, -, rfl⟩ := h
    exact ⟨rfl, rfl, nofun⟩
  | close =>
    obtain ⟨-, rfl⟩ := h
    exact ⟨rfl, rfl, nofun⟩
  | batteryLoad =>
    obtain ⟨-, c, x, -, -, -, -, rfl⟩ := h
    exact ⟨rfl, rfl, nofun⟩
  | batterySave =>
    obtain ⟨m, -, rfl⟩ := h
    exact ⟨rfl, rfl, nofun⟩
  | latchWrite =>
    obtain ⟨-, c, -, -, eff, -, rfl⟩ := h
    exact ⟨rfl, rfl, nofun⟩
  | wramWrite =>
    obtain ⟨-, c, -, -, m, -, rfl⟩ := h
    exact ⟨rfl, rfl, nofun⟩
  | ignoredWrite =>
    obtain ⟨-, c, -, -, rfl⟩ := h
    exact ⟨rfl, rfl, nofun⟩
  | wramRead | romRead | unhandledRead =>
    obtain ⟨-, b, rfl⟩ := h
    exact ⟨rfl, rfl, nofun⟩
  | prg16LowSwitch | chr8Switch | combined | submapperPolarity =>
    obtain ⟨c, latch, -, -, rfl⟩ := h
    exact ⟨rfl, rfl, nofun⟩
  | setPrg8 | setPrg16 | setPrg32 | setChr1 | setChr4 | setChr8 | setMirror =>
    cases h
    exact ⟨rfl, rfl, fun hi => absurd rfl hi⟩
  | _ => exact h.elim

theorem step_decoded {s : State} {c : Command} {rest : List Command} {i : Instr} (hf : s.fault = none)
    (hi : s.input = c :: rest) (hd : decode c.word c.payload = .ok i) : step s = exec i { s with input := rest } := by
  rw [step_command hf hi, runCommand, hd]

theorem step_rejected {s : State} {c : Command} {rest : List Command} (hf : s.fault = none) (hi : s.input = c :: rest)
    (hd : decode c.word c.payload = .error .reservedField) :
    step s = .next (faultedState .reservedField c.word .nothing { s with input := rest }) := by
  rw [step_command hf hi, runCommand, hd]
  exact raise_eq ..

/-- A step that records a fault leaves the old state with the command taken and the record written, and the record
names the command's word. -/
theorem step_raised {s t : State} (h : step s = .next t) (hf : t.fault ≠ none) :
    ∃ c rest code operand, s.input = c :: rest ∧ t = faultedState code c.word operand { s with input := rest } := by
  obtain ⟨hs, c, rest, hi, ⟨i, hd, he⟩ | ⟨-, rfl⟩⟩ := step_next h
  · rcases exec_next he with ⟨code, operand, rfl⟩ | heff
    · exact ⟨c, rest, code, operand, hi, by rw [word_of_decode hd]⟩
    · exact absurd ((effect_frame heff).1.trans hs) hf
  · exact ⟨c, rest, _, _, hi, rfl⟩

/-- Settles O7: fetch runs what decode gives, and decode gives only commands, which are well-formed. -/
theorem stepRunsTheDecodedCommand : Obligations.StepRunsTheDecodedCommand := fun _ _ _ hf hi =>
  ⟨fun _ hd => ⟨(isCommand_of_decode hd).wellFormed, step_decoded hf hi hd⟩, step_rejected hf hi⟩

/-- Settles O8: a fault in the next state is raised by this step, since an instruction's effect keeps the record of the
state it starts in, and a step starts without one. -/
theorem faultingCommandChangesOnlyTheRecord : Obligations.FaultingCommandChangesOnlyTheRecord := by
  refine ⟨fun s t h hf => ?_, fun s t hf h => hf (step_next h).1⟩
  obtain ⟨c, rest, code, operand, hi, rfl⟩ := step_raised h hf
  exact ⟨by simp [hi, faultedState], c, _, by simp [hi], rfl, rfl⟩

end Sys2Proof.Machine
end

section
/-! PROOFS. Every command has a next state in a legal session: the one way a command can stop is an access to a WRAM
buffer that is not there, and the session invariant rules that state out (spec R6, R30; assumption log 7). -/

namespace Sys2Proof.Machine

/-- An open session holds the WRAM buffer its configuration asks for. -/
theorem SessionLegal.wram_present {s : State} {c : Cfg} (h : SessionLegal s) (hc : s.cfg = some c)
    (hl : s.life = .unpowered ∨ s.life = .powered) (hw : c.hasWram = true) : ∃ m, s.wram = some m := by
  have hwl : WramLegal c s.wram := by
    rcases hl with hl | hl <;> simp only [SessionLegal, hl, hc] at h <;> exact h.2.1
  exact Option.isSome_iff_exists.mp (hwl.1.trans hw)

/-- An access is classed as WRAM only where there is WRAM (spec R55, R56). -/
theorem hasWram_of_classifyWrite {c : Cfg} {a : Addr} (h : classifyWrite c a = .wram) : c.hasWram = true := by
  unfold classifyWrite at h
  split at h
  · cases h
  · split at h
    · next hw => exact (Bool.and_eq_true_iff.mp hw).1
    · cases h

theorem hasWram_of_classifyRead {c : Cfg} {a : Addr} (h : classifyRead c a = .wram) : c.hasWram = true := by
  unfold classifyRead at h
  split at h
  · next hw => exact (Bool.and_eq_true_iff.mp hw).1
  · split at h <;> cases h

theorem hasWram_of_batterySave {c : Cfg} (h : c.batterySave = true) : c.hasWram = true :=
  (Bool.and_eq_true_iff.mp h).1

theorem lifeBatterySave_none {l : Life} (h : lifeBatterySave l = none) : l = .unpowered ∨ l = .powered := by
  cases l <;> simp_all [lifeBatterySave]

/-! ### The shared operations -/

theorem checked_total {fault : Option FaultCode} {w : CmdWord} {s : State} {k : Out} (hk : ∃ t, k = .next t) :
    ∃ t, checked fault w s k = .next t := by
  cases fault with
  | none => exact hk
  | some f => exact ⟨_, checked_some f w s k⟩

/-- A command that reads the configuration has a next state when its own rule has one under the bound configuration. -/
theorem withCfg_total {fault : Option FaultCode} {w : CmdWord} {s : State} {k : Cfg → Out}
    (hk : ∀ c, fault = none → s.cfg = some c → ∃ t, k c = .next t) : ∃ t, withCfg fault w s k = .next t := by
  cases fault with
  | some f => exact ⟨_, withCfg_some_fault f w s k⟩
  | none =>
    cases hc : s.cfg with
    | none => exact ⟨faultedState .noInstance w .nothing s, by simp [withCfg, hc]⟩
    | some c => simpa only [withCfg_bound hc] using hk c rfl hc

theorem latchWrite_total (c : Cfg) (w : CmdWord) (a : Addr) (v : Byte) (s : State) :
    ∃ t, latchWrite c w a v s = .next t := by
  unfold latchWrite
  split <;> exact ⟨_, rfl⟩

theorem wramWrite_total {s : State} (h : ∃ m, s.wram = some m) (a : Addr) (v : Byte) :
    ∃ t, wramWrite a v s = .next t := by
  obtain ⟨m, hm⟩ := h
  simp [wramWrite, hm]

theorem wramRead_total {s : State} (h : ∃ m, s.wram = some m) (a : Addr) : ∃ t, wramRead a s = .next t := by
  obtain ⟨m, hm⟩ := h
  simp [wramRead, hm]

theorem romRead_total (c : Cfg) (w : CmdWord) (a : Addr) (s : State) : ∃ t, romRead c w a s = .next t := by
  unfold romRead
  split <;> exact ⟨_, rfl⟩

/-! ### The commands -/

theorem execInit_total (r : Option CfgRecord) (s : State) : ∃ t, execInit r s = .next t := by
  refine checked_total ?_
  cases r with
  | none => exact ⟨_, rfl⟩
  | some x =>
    cases hb : bindRecord x with
    | ok c => exact ⟨{ initState c s with response := some .unit }, by simp [hb]⟩
    | error e => exact ⟨faultedState .configInvalid (Instr.init (some x)).word (.check e) s, by simp [hb]⟩

theorem execPowerOn_total (s : State) : ∃ t, execPowerOn s = .next t := withCfg_total fun _ _ _ => ⟨_, rfl⟩

theorem execClose_total (s : State) : ∃ t, execClose s = .next t := checked_total ⟨_, rfl⟩

theorem execLoadState_total (d : Byte) (img : Option Image) (s : State) : ∃ t, execLoadState d img s = .next t := by
  refine withCfg_total fun c _ _ => ?_
  split <;> exact ⟨_, rfl⟩

theorem execBatteryLoad_total (img : Option Image) (s : State) : ∃ t, execBatteryLoad img s = .next t := by
  refine withCfg_total fun c _ _ => ?_
  cases c.batterySave with
  | false => exact ⟨_, rfl⟩
  | true =>
    cases img with
    | none => exact ⟨_, rfl⟩
    | some x => simp only [if_true]; split <;> exact ⟨_, rfl⟩

section
variable {s : State} (hs : SessionLegal s)
include hs

theorem execWrite_total (a : Addr) (v : Byte) : ∃ t, execWrite a v s = .next t := by
  refine withCfg_total fun c hl hc => ?_
  split
  · exact latchWrite_total ..
  · next hk =>
    exact wramWrite_total (hs.wram_present hc (.inr (lifeRunning_none hl)) (hasWram_of_classifyWrite hk)) a v
  · exact ⟨_, rfl⟩

theorem execRead_total (a : Addr) : ∃ t, execRead a s = .next t := by
  refine withCfg_total fun c hl hc => ?_
  split
  · next hk => exact wramRead_total (hs.wram_present hc (.inr (lifeRunning_none hl)) (hasWram_of_classifyRead hk)) a
  · exact romRead_total ..
  · exact ⟨_, rfl⟩

theorem execSaveState_total : ∃ t, execSaveState s = .next t := by
  refine withCfg_total fun c hl hc => ?_
  split
  · exact ⟨_, rfl⟩
  · split
    · next hw =>
      obtain ⟨m, hm⟩ := hs.wram_present hc (.inr (lifeRunning_none hl)) hw
      simp [hm]
    · exact ⟨_, rfl⟩

theorem execBatterySave_total : ∃ t, execBatterySave s = .next t := by
  refine withCfg_total fun c hl hc => ?_
  split
  · next hb =>
    obtain ⟨m, hm⟩ := hs.wram_present hc (lifeBatterySave_none hl) (hasWram_of_batterySave hb)
    simp [hm]
  · exact ⟨_, rfl⟩

/-- In a legal session every command has a next state. -/
theorem exec_total {i : Instr} (hi : i.IsCommand) : ∃ t, exec i s = .next t := by
  obtain ⟨hword, hself⟩ := hi
  cases i with
  | init r => exact execInit_total r s
  | powerOn => exact execPowerOn_total s
  | write a v => exact execWrite_total hs a v
  | read a => exact execRead_total hs a
  | saveState => exact execSaveState_total hs
  | loadState d img => exact execLoadState_total d img s
  | close => exact execClose_total s
  | batteryLoad img => exact execBatteryLoad_total img s
  | batterySave => exact execBatterySave_total hs
  | reservedOp9 | reservedOpA | reservedOpB | reservedOpC | reservedOpD | reservedOpE | reservedOpF => exact ⟨_, rfl⟩
  | latchWrite | wramWrite | ignoredWrite | wramRead | romRead | unhandledRead => cases hself
  | _ => cases hword

end

/-- The next state of a command has the queue of the present one, and a response or a fault but not both. -/
theorem exec_outcome {i : Instr} {s t : State} (hi : i.IsCommand) (hf : s.fault = none) (h : exec i s = .next t) :
    t.input = s.input ∧ ((t.fault = none ∧ t.response ≠ none) ∨ (t.fault ≠ none ∧ t.response = none)) := by
  rcases exec_next h with ⟨code, operand, rfl⟩ | heff
  · exact ⟨rfl, .inr ⟨nofun, rfl⟩⟩
  · obtain ⟨hfault, hinput, hresponse⟩ := effect_frame heff
    exact ⟨hinput, .inl ⟨hfault.trans hf, hresponse hi.encoded⟩⟩

/-- Settles O9: the delivered word is rejected with a fault, or decodes to a command, and every command has a next state
in a legal session. -/
theorem everyCommandHasAnOutcome : Obligations.EveryCommandHasAnOutcome := by
  intro s c rest hinv hf hi
  cases hd : decode c.word c.payload with
  | error e =>
    cases e
    exact ⟨_, step_rejected hf hi hd, rfl, .inr ⟨nofun, rfl⟩⟩
  | ok i =>
    have hcmd := isCommand_of_decode hd
    have hsession : SessionLegal { s with input := rest } := hinv.session
    obtain ⟨t, ht⟩ := exec_total hsession hcmd
    exact ⟨t, (step_decoded hf hi hd).trans ht, exec_outcome (s := { s with input := rest }) hcmd hf ht⟩

end Sys2Proof.Machine
end

section
/-! PROOFS. What a legal INIT record is: where each of its values decodes, by the value's range, and when `bindRecord`
binds the whole (spec R20, R77, R78, R100). -/

namespace Sys2Proof

theorem prgMode_ofCode_defined (n : Nat) : (∃ m, PrgMode.ofCode n = some m) ↔ n ≤ 1 := by
  match n with
  | 0 | 1 => simp [PrgMode.ofCode]
  | n + 2 => simp [PrgMode.ofCode]

theorem mirroring_ofCode_defined (n : Nat) : (∃ m, Mirroring.ofCode n = some m) ↔ n ≤ 3 := by
  match n with
  | 0 | 1 | 2 | 3 => simp [Mirroring.ofCode]
  | n + 4 => simp [Mirroring.ofCode]

theorem bitIndex_defined (n : Nat) : (∃ k, bitIndex n = some k) ↔ n ≤ 7 := by
  unfold bitIndex
  split <;> simp <;> omega

theorem decodeMirBit_defined (b : Option Nat) : (∃ k, decodeMirBit b = some k) ↔ ∀ n, b = some n → n ≤ 7 := by
  cases b with
  | none => simp [decodeMirBit]
  | some n => simp [decodeMirBit, bitIndex_defined]

theorem decodeLayout_defined (r : VariantRecord) :
    (∃ l, decodeLayout r = some l) ↔ r.prgMode ≤ 1 ∧ r.prgShift ≤ 7 ∧ r.chrShift ≤ 7 := by
  simp [decodeLayout, Option.bind_eq_some_iff, prgMode_ofCode_defined, bitIndex_defined]

/-- The parameters that tags 2 and 3 take are in their ranges (spec R78). -/
def VariantRecord.ParamsLegal (r : VariantRecord) : Prop :=
  r.prgMode ≤ 1 ∧ r.prgShift ≤ 7 ∧ r.chrShift ≤ 7 ∧ r.mirLo ≤ 3 ∧ r.mirHi ≤ 3 ∧ ∀ k, r.mirBit = some k → k ≤ 7

theorem decodeCombined_defined (r : VariantRecord) : (∃ p, decodeCombined r = some p) ↔ r.ParamsLegal := by
  simp only [decodeCombined, Option.bind_eq_bind, Option.bind_eq_some_iff, Option.some.injEq, ↓existsAndEq, and_true,
    exists_and_left, exists_and_right, mirroring_ofCode_defined, decodeMirBit_defined, decodeLayout_defined,
    VariantRecord.ParamsLegal]
  tauto

theorem decodePolarity_defined (r : VariantRecord) :
    (∃ p, decodePolarity r = some p) ↔ r.ParamsLegal ∧ r.mirBit ≠ none := by
  cases hb : r.mirBit with
  | none => simp [decodePolarity, hb]
  | some n =>
    simp only [decodePolarity, hb, Option.bind_eq_bind, Option.bind_some, Option.bind_eq_some_iff, Option.some.injEq,
      ↓existsAndEq, and_true, exists_and_left, exists_and_right, mirroring_ofCode_defined, bitIndex_defined,
      decodeLayout_defined, VariantRecord.ParamsLegal, forall_eq', ne_eq, reduceCtorEq, not_false_eq_true]
    tauto

/-- A variant record decodes exactly when its tag is one of the four and the parameters that the tag takes are legal. -/
theorem decodeVariant_defined (r : VariantRecord) :
    (∃ v, decodeVariant r = .ok v) ↔
      r.tag.toNat ≤ 3 ∧ (2 ≤ r.tag.toNat → r.ParamsLegal) ∧ (r.tag.toNat = 3 → r.mirBit ≠ none) := by
  unfold decodeVariant
  split
  case h_1 h | h_2 h => simp [h]
  case h_3 h =>
    rw [h, ← decodeCombined_defined]
    cases decodeCombined r <;> simp
  case h_4 h =>
    simp only [h, le_refl, true_and, Nat.reduceLeDiff, forall_const, ← decodePolarity_defined]
    cases decodePolarity r <;> simp
  case h_5 =>
    have h3 : ¬ r.tag.toNat ≤ 3 := by simp only [imp_false] at *; omega
    simp [h3]

/-- A record binds exactly when each check of spec R100 passes, and what is bound is the record with its variant
decoded. -/
theorem bindRecord_ok_iff {r : CfgRecord} {c : Cfg} :
    bindRecord r = .ok c ↔
      r.winLow ≤ r.winHigh ∧ 1 ≤ r.prgBanks16 ∧ ∃ v, decodeVariant r.variant = .ok v ∧ c = { r with variant := v } := by
  unfold bindRecord
  split
  · next hw =>
    split
    · next hn => cases decodeVariant r.variant <;> simp [hw, hn, eq_comm]
    · next hn => simp [hn]
  · next hw => simp [hw]

/-- Settles O6: `bindRecord` checks the window, the ROM size and the variant, and the variant decodes exactly when each
parameter its tag takes is in range. -/
theorem recordBindsExactlyWhenLegal : Obligations.RecordBindsExactlyWhenLegal := by
  intro r
  refine ⟨?_, fun c hc => (bindRecord_ok_iff.mp hc).2.2⟩
  calc (∃ c, bindRecord r = .ok c)
      ↔ r.winLow ≤ r.winHigh ∧ 1 ≤ r.prgBanks16 ∧ ∃ v, decodeVariant r.variant = .ok v := by
        simp only [bindRecord_ok_iff]
        exact ⟨fun ⟨_, hw, hn, v, hv, _⟩ => ⟨hw, hn, v, hv⟩, fun ⟨hw, hn, v, hv⟩ => ⟨_, hw, hn, v, hv, rfl⟩⟩
    _ ↔ _ := by rw [decodeVariant_defined]; rfl

end Sys2Proof
end

section
/-! PROOFS. What a Sync makes of a bank map: every PRG and CHR slot is written, and the mirroring is written by a
variant with a mirroring bit and left by the others, whatever the latch; so a Sync keeps nothing of the Syncs before
it (spec R162, R170, R172 to R175). -/

namespace Sys2Proof.Machine

/-- The PRG slots that two 16 KiB banks fill, spec R164. -/
def prg16Slots (lo hi : Nat) : PrgSlots := ⟨some (2 * lo), some (2 * lo + 1), some (2 * hi), some (2 * hi + 1)⟩

/-- The PRG slots that a 32 KiB bank fills, spec R165. -/
def prg32Slots (b : Nat) : PrgSlots := ⟨some (4 * b), some (4 * b + 1), some (4 * b + 2), some (4 * b + 3)⟩

/-- The CHR slots that an 8 KiB bank fills, spec R168. -/
def chr8Slots (b : Nat) : ChrSlots :=
  ⟨some (8 * b), some (8 * b + 1), some (8 * b + 2), some (8 * b + 3), some (8 * b + 4), some (8 * b + 5),
    some (8 * b + 6), some (8 * b + 7)⟩

/-- The PRG slots of a bank layout, spec R174. -/
def layoutPrg (l : BankLayout) (latch : Byte) (n : Nat) : PrgSlots :=
  match l.prgMode with
  | .p16FixedLast => prg16Slots (bitGroup latch l.prgShift l.prgMask) (last16 n)
  | .p32 => prg32Slots (bitGroup latch l.prgShift l.prgMask)

/-- The CHR slots of a bank layout, spec R174. -/
def layoutChr (l : BankLayout) (latch : Byte) : ChrSlots := chr8Slots (bitGroup latch l.chrShift l.chrMask)

/-- The PRG slots after a Sync, spec R172 to R175. -/
def syncedPrg (v : Variant) (latch : Byte) (n : Nat) : PrgSlots :=
  match v with
  | .prg16LowSwitch => prg16Slots (latch &&& 0x0F#8).toNat (last16 n)
  | .chr8Switch => prg32Slots 0
  | .combined p => layoutPrg p.layout latch n
  | .submapperPolarity p => layoutPrg p.layout latch n

/-- The CHR slots after a Sync, spec R172 to R175. -/
def syncedChr (v : Variant) (latch : Byte) : ChrSlots :=
  match v with
  | .prg16LowSwitch => chr8Slots 0
  | .chr8Switch => chr8Slots latch.toNat
  | .combined p => layoutChr p.layout latch
  | .submapperPolarity p => layoutChr p.layout latch

/-- The mirroring that a Sync sets, `none` where its variant sets none (spec R169, R174, R175). -/
def syncedMirror (v : Variant) (latch : Byte) (sub : Nat) : Option Mirroring :=
  match v with
  | .prg16LowSwitch | .chr8Switch => none
  | .combined p => p.mirBit.map fun k => if latch.getLsbD k.val then p.mirHi else p.mirLo
  | .submapperPolarity p =>
    some (if xor (latch.getLsbD p.mirBit.val) (decide (sub = p.invertSubmapper)) then p.mirHi else p.mirLo)

theorem applyCalls_layoutCalls (l : BankLayout) (latch : Byte) (n : Nat) (m : BankMap) :
    applyCalls (layoutCalls l latch n) m = ⟨layoutPrg l latch n, layoutChr l latch, m.mirror⟩ := by
  unfold layoutCalls layoutPrg
  cases l.prgMode <;> rfl

theorem applyCalls_decodeCombinedCalls (p : CombinedParams) (latch : Byte) (n : Nat) (m : BankMap) :
    applyCalls (decodeCombinedCalls p latch n) m =
      ⟨layoutPrg p.layout latch n, layoutChr p.layout latch,
        (syncedMirror (.combined p) latch 0).getD m.mirror⟩ := by
  rw [decodeCombinedCalls, applyCalls_append, applyCalls_layoutCalls]
  obtain ⟨l, bit, lo, hi⟩ := p
  cases bit <;> rfl

/-- The bank map that a variant's calls make of `m`: of `m` itself only the mirroring can be left. -/
theorem applyCalls_decodeCalls (v : Variant) (latch : Byte) (sub n : Nat) (m : BankMap) :
    applyCalls (decodeCalls v latch sub n) m =
      ⟨syncedPrg v latch n, syncedChr v latch, (syncedMirror v latch sub).getD m.mirror⟩ := by
  cases v with
  | prg16LowSwitch | chr8Switch => rfl
  | combined p => exact applyCalls_decodeCombinedCalls p latch n m
  | submapperPolarity p =>
    rw [decodeCalls, decodePolarityCalls, applyCalls_append, applyCalls_decodeCombinedCalls]
    rfl

/-- Whether a variant sets the mirroring does not depend on the latch, so a Sync's mirroring hides the one before it. -/
theorem syncedMirror_getD_syncedMirror (v : Variant) (latch old : Byte) (sub : Nat) (m : Mirroring) :
    (syncedMirror v latch sub).getD ((syncedMirror v old sub).getD m) = (syncedMirror v latch sub).getD m := by
  cases v with
  | prg16LowSwitch | chr8Switch | submapperPolarity => rfl
  | combined p =>
    obtain ⟨l, bit, lo, hi⟩ := p
    cases bit <;> rfl

/-- A Sync hides the Sync before it (spec R170). -/
theorem applyCalls_syncCalls_syncCalls (c : Cfg) (latch old : Byte) (m : BankMap) :
    applyCalls (syncCalls c latch) (applyCalls (syncCalls c old) m) = applyCalls (syncCalls c latch) m := by
  simp only [syncCalls, applyCalls_decodeCalls, syncedMirror_getD_syncedMirror]

/-- A Sync of the map that another Sync of the session made gives what it gives from INIT's map. -/
theorem applyCalls_syncedBank (c : Cfg) (latch old : Byte) :
    applyCalls (syncCalls c latch) (syncedBank c old) = syncedBank c latch :=
  applyCalls_syncCalls_syncCalls c latch old _

end Sys2Proof.Machine
end

section
/-! PROOFS. What a command can do to the engine, said once for the frame obligations: it leaves every engine field, or
makes one of seven changes (spec R21, R26, R30, R36, R63, R160). -/

namespace Sys2Proof.Machine

open Sys2Proof.Laws

/-- `t` is `s` but for what is recorded, delivered and answered: every other field of the engine is the same. -/
def SameEngine (s t : State) : Prop := ∃ f i r, t = { s with fault := f, input := i, response := r }

/-- The state POWER_ON leaves, but for its response (spec R104 to R107). -/
def poweredOnState (c : Cfg) (s : State) : State :=
  { s with life := .powered, latch := some c.initLatch, bank := applyCalls (syncCalls c c.initLatch) s.bank }

/-- The state STATE_LOAD leaves, but for its response (spec R109, R110). -/
def loadedState (c : Cfg) (d : Byte) (img : Option Image) (s : State) : State :=
  { s with latch := some d, wram := loadedWram c img s.wram, bank := applyCalls (syncCalls c d) s.bank }

/-- The state CLOSE leaves, but for its response (spec R112). -/
def sessionClosedState (s : State) : State := { s with wram := none, life := .closed }

/-- The state BATTERY_LOAD leaves, but for its response (spec R113). -/
def batteryLoadedState (x : Image) (s : State) : State := { s with wram := some (ofImage x) }

/-- The changes that commands make to the engine, each with the condition it is made under. -/
inductive Change : Instr → State → State → Prop
  | init {x c s t} (hl : s.life = .absent) (hb : bindRecord x = .ok c) (ht : SameEngine (initState c s) t) :
      Change (.init (some x)) s t
  | powerOn {c s t} (hl : s.life = .unpowered) (hc : s.cfg = some c) (ht : SameEngine (poweredOnState c s) t) :
      Change .powerOn s t
  | latchWrite {a v c eff s t} (hl : s.life = .powered) (hc : s.cfg = some c) (ha : classifyWrite c a = .latch)
      (ht : SameEngine (latchedState c eff s) t) : Change (.write a v) s t
  | wramWrite {a v c m s t} (hl : s.life = .powered) (hc : s.cfg = some c) (ha : classifyWrite c a = .wram)
      (hm : s.wram = some m) (ht : SameEngine (wramWrittenState m a v s) t) : Change (.write a v) s t
  | loadState {d img c s t} (hl : s.life = .powered) (hc : s.cfg = some c) (hi : snapshotShapeOk c img = true)
      (ht : SameEngine (loadedState c d img s) t) : Change (.loadState d img) s t
  | close {s t} (hl : s.life ≠ .absent) (ht : SameEngine (sessionClosedState s) t) :
      Change .close s t
  | batteryLoad {c x s t} (hl : s.life = .unpowered) (hc : s.cfg = some c) (hb : c.batterySave = true)
      (hx : x.length = wramSize) (ht : SameEngine (batteryLoadedState x s) t) :
      Change (.batteryLoad (some x)) s t

/-- The effect of a command that does not fault. -/
theorem change_of_effect {i : Instr} {s t : State} (hi : i.IsCommand) (h : Effect i s t) :
    SameEngine s t ∨ Change i s t := by
  obtain ⟨hword, hself⟩ := hi
  cases i with
  | init =>
    obtain ⟨hl, x, c, rfl, hb, rfl⟩ := h
    exact .inr (.init hl hb ⟨_, _, _, rfl⟩)
  | powerOn =>
    obtain ⟨hl, c, hc, rfl⟩ := h
    exact .inr (.powerOn hl hc ⟨_, _, _, rfl⟩)
  | write =>
    obtain ⟨hl, c, hc, ⟨ha, eff, -, rfl⟩ | ⟨ha, m, hm, rfl⟩ | ⟨-, rfl⟩⟩ := h
    · exact .inr (.latchWrite hl hc ha ⟨_, _, _, rfl⟩)
    · exact .inr (.wramWrite hl hc ha hm ⟨_, _, _, rfl⟩)
    · exact .inl ⟨_, _, _, rfl⟩
  | read =>
    obtain ⟨-, c, b, -, rfl⟩ := h
    exact .inl ⟨_, _, _, rfl⟩
  | saveState =>
    obtain ⟨-, c, latch, img, -, -, rfl⟩ := h
    exact .inl ⟨_, _, _, rfl⟩
  | loadState =>
    obtain ⟨hl, c, hc, hs, rfl⟩ := h
    exact .inr (.loadState hl hc hs ⟨_, _, _, rfl⟩)
  | close =>
    obtain ⟨hl, rfl⟩ := h
    exact .inr (.close hl ⟨_, _, _, rfl⟩)
  | batteryLoad =>
    obtain ⟨hl, c, x, hc, hb, rfl, hx, rfl⟩ := h
    exact .inr (.batteryLoad hl hc hb hx ⟨_, _, _, rfl⟩)
  | batterySave =>
    obtain ⟨m, -, rfl⟩ := h
    exact .inl ⟨_, _, _, rfl⟩
  | reservedOp9 | reservedOpA | reservedOpB | reservedOpC | reservedOpD | reservedOpE | reservedOpF => exact h.elim
  | latchWrite | wramWrite | ignoredWrite | wramRead | romRead | unhandledRead => cases hself
  | _ => cases hword

/-- A step takes one command off the queue and leaves the engine or makes the change of the instruction that the command
decodes to. -/
theorem step_change {s t : State} (h : step s = .next t) :
    ∃ c rest, s.input = c :: rest ∧ t.input = rest ∧
      (SameEngine s t ∨ ∃ i, decode c.word c.payload = .ok i ∧ Change i { s with input := rest } t) := by
  obtain ⟨hs, c, rest, hi, ⟨i, hd, he⟩ | ⟨-, rfl⟩⟩ := step_next h
  · have hcmd := isCommand_of_decode hd
    refine ⟨c, rest, hi, (exec_outcome (s := { s with input := rest }) hcmd hs he).1, ?_⟩
    rcases exec_next he with ⟨f, o, rfl⟩ | heff
    · exact .inl ⟨_, _, _, rfl⟩
    · rcases change_of_effect hcmd heff with ⟨f, q, r, rfl⟩ | hch
      · exact .inl ⟨_, _, _, rfl⟩
      · exact .inr ⟨i, hd, hch⟩
  · exact ⟨c, rest, hi, rfl, .inl ⟨_, _, _, rfl⟩⟩

/-! ### The command words behind the changes -/

/-- The word and record behind an INIT: the word is 0x00000000 and the record is the payload's (spec R71, R74). -/
theorem init_of_decode {w : CmdWord} {p : Payload} {r : Option CfgRecord} (h : decode w p = .ok (.init r)) :
    w = 0x00000000#32 ∧ p.cfg = r := by
  obtain rfl := word_of_decode h
  refine ⟨rfl, ?_⟩
  simpa [decode, Instr.word, fieldsOk, opField_assembleWord, rsvField_assembleWord, addrField_assembleWord,
    dataField_assembleWord] using h

theorem op_of_decode {w : CmdWord} {p : Payload} {i : Instr} {n : Nat} {a : Addr} {d : Byte}
    (h : decode w p = .ok i) (hw : i.word = assembleWord (BitVec.ofNat 4 n) a d) (hn : n < 16 := by decide) :
    (opField w).toNat = n := by
  rw [← word_of_decode h, hw, opField_assembleWord]
  exact Nat.mod_eq_of_lt hn

theorem addr_of_decode_write {w : CmdWord} {p : Payload} {a : Addr} {v : Byte} (h : decode w p = .ok (.write a v)) :
    addrField w = a := by
  rw [← word_of_decode h]
  exact addrField_assembleWord ..

/-! ### Where the address of a write lies (spec R53, R55) -/

theorem inLatchWin_iff {c : Cfg} {a : Addr} : inLatchWin c a = true ↔ c.winLow ≤ a ∧ a ≤ c.winHigh := by
  simp [inLatchWin]

theorem inWramWin_iff {a : Addr} : inWramWin a = true ↔ 0x6000#16 ≤ a ∧ a ≤ 0x7FFF#16 := by simp [inWramWin]

theorem classifyWrite_latch_iff {c : Cfg} {a : Addr} :
    classifyWrite c a = .latch ↔ c.winLow ≤ a ∧ a ≤ c.winHigh := by
  rw [← inLatchWin_iff, classifyWrite]
  split
  · simp [*]
  · split <;> simp [*]

theorem classifyWrite_wram_iff {c : Cfg} {a : Addr} :
    classifyWrite c a = .wram ↔
      ¬ (c.winLow ≤ a ∧ a ≤ c.winHigh) ∧ c.hasWram = true ∧ 0x6000#16 ≤ a ∧ a ≤ 0x7FFF#16 := by
  rw [← inLatchWin_iff, ← inWramWin_iff, ← Bool.and_eq_true, classifyWrite]
  split
  · simp [*]
  · split <;> simp [*]

/-! ### The frame obligations -/

/-- The effect of an instruction keeps `life` or makes one of its transitions (spec R25). -/
theorem effect_life {i : Instr} {s t : State} (h : Effect i s t) : t.life = s.life ∨ LifeStep i s.life t.life := by
  cases i with
  | init =>
    obtain ⟨hl, x, c, rfl, -, rfl⟩ := h
    exact .inr (hl ▸ .init _)
  | powerOn =>
    obtain ⟨hl, c, -, rfl⟩ := h
    exact .inr (hl ▸ .powerOn)
  | close =>
    obtain ⟨hl, rfl⟩ := h
    cases hlife : s.life with
    | absent => exact absurd hlife hl
    | unpowered => exact .inr .closeUnpowered
    | powered => exact .inr .closePowered
    | closed => exact .inr .closeClosed
  | write =>
    obtain ⟨-, c, -, ⟨-, eff, -, rfl⟩ | ⟨-, m, -, rfl⟩ | ⟨-, rfl⟩⟩ := h <;> exact .inl rfl
  | read =>
    obtain ⟨-, c, b, -, rfl⟩ := h
    exact .inl rfl
  | saveState =>
    obtain ⟨-, c, latch, img, -, -, rfl⟩ := h
    exact .inl rfl
  | loadState =>
    obtain ⟨-, c, -, -, rfl⟩ := h
    exact .inl rfl
  | batteryLoad =>
    obtain ⟨-, c, x, -, -, -, -, rfl⟩ := h
    exact .inl rfl
  | batterySave =>
    obtain ⟨m, -, rfl⟩ := h
    exact .inl rfl
  | latchWrite =>
    obtain ⟨-, c, -, -, eff, -, rfl⟩ := h
    exact .inl rfl
  | wramWrite =>
    obtain ⟨-, c, -, -, m, -, rfl⟩ := h
    exact .inl rfl
  | ignoredWrite =>
    obtain ⟨-, c, -, -, rfl⟩ := h
    exact .inl rfl
  | wramRead | romRead | unhandledRead =>
    obtain ⟨-, b, rfl⟩ := h
    exact .inl rfl
  | prg16LowSwitch | chr8Switch | combined | submapperPolarity =>
    obtain ⟨c, latch, -, -, rfl⟩ := h
    exact .inl rfl
  | setPrg8 | setPrg16 | setPrg32 | setChr1 | setChr4 | setChr8 | setMirror =>
    cases h
    exact .inl rfl
  | _ => exact h.elim

/-- In Absent no configuration is bound (spec R24). -/
theorem SessionLegal.cfg_absent {s : State} (hs : SessionLegal s) (hl : s.life = .absent) : s.cfg = none := by
  cases hc : s.cfg with
  | none => rfl
  | some c => simp [SessionLegal, hl, hc] at hs

/-- Settles O13: the three commands that set `life` make its five transitions, and every other effect keeps it. -/
theorem lifeChangesOnlyByItsTransitions : Obligations.LifeChangesOnlyByItsTransitions := by
  intro i s t h
  rcases exec_next h with ⟨f, o, rfl⟩ | h
  · exact .inl rfl
  · exact effect_life h

/-- Settles O14: of the changes a command makes only INIT's sets the configuration, and in Absent none is bound. -/
theorem configurationIsWrittenOnceAtInit : Obligations.ConfigurationIsWrittenOnceAtInit := by
  intro s t hinv h hne
  obtain ⟨⟨w, p⟩, rest, hi, -, ⟨_, _, _, rfl⟩ | ⟨i, hd, hch⟩⟩ := step_change h
  · exact absurd rfl hne
  · cases hch with
    | init hl hb ht =>
      obtain ⟨_, _, _, rfl⟩ := ht
      obtain ⟨rfl, hp⟩ := init_of_decode hd
      exact ⟨hinv.session.cfg_absent hl, hl, rfl, p, _, rest, hi, ⟨_, hp, hb⟩, rfl⟩
    | powerOn _ _ ht | latchWrite _ _ _ ht | wramWrite _ _ _ _ ht | loadState _ _ _ ht | close _ ht
    | batteryLoad _ _ _ _ ht =>
      obtain ⟨_, _, _, rfl⟩ := ht
      exact absurd rfl hne

/-- Settles O15: a command that leaves the engine, and each change but INIT's, POWER_ON's, STATE_LOAD's and a latch
write's, keeps the latch and the bank map. -/
theorem onlySyncPointsChangeLatchAndBankMap : Obligations.OnlySyncPointsChangeLatchAndBankMap := by
  intro s t h hne
  obtain ⟨c, rest, hi, -, ⟨_, _, _, rfl⟩ | ⟨i, hd, hch⟩⟩ := step_change h
  · exact absurd hne (by simp)
  · refine ⟨c, rest, hi, ?_⟩
    cases hch with
    | init => exact .inl (op_of_decode hd rfl)
    | powerOn => exact .inr (.inl (op_of_decode hd rfl))
    | loadState => exact .inr (.inr (.inl (op_of_decode hd rfl)))
    | latchWrite _ hc ha =>
      have haddr := addr_of_decode_write hd
      exact .inr (.inr (.inr ⟨op_of_decode hd rfl, _, hc, haddr ▸ classifyWrite_latch_iff.mp ha⟩))
    | wramWrite _ _ _ _ ht | close _ ht | batteryLoad _ _ _ _ ht =>
      obtain ⟨_, _, _, rfl⟩ := ht
      exact hne.elim (absurd rfl) (absurd rfl)

/-- Settles O16: a command that leaves the engine, POWER_ON and a latch write keep the WRAM buffer; the other changes
are the named ones. -/
theorem onlyNamedCommandsChangeWram : Obligations.OnlyNamedCommandsChangeWram := by
  intro s t h hne
  obtain ⟨c, rest, hi, -, ⟨_, _, _, rfl⟩ | ⟨i, hd, hch⟩⟩ := step_change h
  · exact absurd rfl hne
  · refine ⟨c, rest, hi, ?_⟩
    cases hch with
    | init => exact .inl (op_of_decode hd rfl)
    | loadState => exact .inr (.inl (op_of_decode hd rfl))
    | close => exact .inr (.inr (.inl (op_of_decode hd rfl)))
    | batteryLoad => exact .inr (.inr (.inr (.inl (op_of_decode hd rfl))))
    | wramWrite _ hc ha =>
      obtain rfl := addr_of_decode_write hd
      obtain ⟨hlatch, hwram, hlo, hhi⟩ := classifyWrite_wram_iff.mp ha
      exact .inr (.inr (.inr (.inr ⟨op_of_decode hd rfl, hlo, hhi, _, hc, hwram, hlatch⟩)))
    | powerOn _ _ ht | latchWrite _ _ _ ht =>
      obtain ⟨_, _, _, rfl⟩ := ht
      exact absurd rfl hne

end Sys2Proof.Machine
end

section
/-! PROOFS. The session invariant: what it says in each lifecycle state, and that each change a command makes keeps it
(spec R24 to R30, R38, R170). -/

namespace Sys2Proof.Machine

/-- Settles O11: reset is Absent with nothing bound, and no command is delivered. -/
theorem resetMeetsTheSessionInvariant : Obligations.ResetMeetsTheSessionInvariant :=
  ⟨⟨rfl, rfl, .horizontal, rfl⟩, nofun⟩

/-! ### The invariant by lifecycle state -/

section
variable {s : State} {c : Cfg}

theorem sessionLegal_unpowered_iff (hl : s.life = .unpowered) (hc : s.cfg = some c) :
    SessionLegal s ↔ CfgLegal c ∧ WramLegal c s.wram ∧ Unsynced c s := by simp [SessionLegal, hl, hc]

theorem sessionLegal_powered_iff (hl : s.life = .powered) (hc : s.cfg = some c) :
    SessionLegal s ↔ CfgLegal c ∧ WramLegal c s.wram ∧ Synced c s := by simp [SessionLegal, hl, hc]

theorem sessionLegal_closed_iff (hl : s.life = .closed) (hc : s.cfg = some c) :
    SessionLegal s ↔ CfgLegal c ∧ s.wram = none ∧ (Unsynced c s ∨ Synced c s) := by simp [SessionLegal, hl, hc]

end

theorem SameEngine.sessionLegal {s t : State} (h : SameEngine s t) (hs : SessionLegal s) : SessionLegal t := by
  obtain ⟨_, _, _, rfl⟩ := h
  exact hs

/-- Outside Absent a configuration is bound (spec R24). -/
theorem SessionLegal.cfg_bound {s : State} (hs : SessionLegal s) (hl : s.life ≠ .absent) : ∃ c, s.cfg = some c := by
  cases hc : s.cfg with
  | some c => exact ⟨c, rfl⟩
  | none => cases hlife : s.life <;> simp_all [SessionLegal]

/-- Outside Absent the configuration is legal, and the latch and the bank map are INIT's or a Sync's. -/
theorem SessionLegal.unsynced_or_synced {s : State} {c : Cfg} (hs : SessionLegal s) (hl : s.life ≠ .absent)
    (hc : s.cfg = some c) : CfgLegal c ∧ (Unsynced c s ∨ Synced c s) := by
  cases hlife : s.life with
  | absent => exact absurd hlife hl
  | unpowered =>
    obtain ⟨hcfg, -, hu⟩ := (sessionLegal_unpowered_iff hlife hc).mp hs
    exact ⟨hcfg, .inl hu⟩
  | powered =>
    obtain ⟨hcfg, -, hy⟩ := (sessionLegal_powered_iff hlife hc).mp hs
    exact ⟨hcfg, .inr hy⟩
  | closed =>
    obtain ⟨hcfg, -, hbank⟩ := (sessionLegal_closed_iff hlife hc).mp hs
    exact ⟨hcfg, hbank⟩

/-! ### The parts of the invariant -/

/-- A record that binds gives a legal configuration when it lists its ROM canonically. -/
theorem cfgLegal_of_bindRecord {x : CfgRecord} {c : Cfg} (hb : bindRecord x = .ok c) (hrom : Memory.wf x.prgRom) :
    CfgLegal c := by
  obtain ⟨hw, hn, v, -, rfl⟩ := bindRecord_ok_iff.mp hb
  exact ⟨hw, hn, hrom⟩

/-- A buffer in canonical form and in bounds is legal where the configuration has WRAM. -/
theorem wramLegal_some {c : Cfg} {m : Memory} (hw : c.hasWram = true) (hwf : Memory.wf m)
    (hb : Memory.below wramSize m) : WramLegal c (some m) :=
  ⟨hw.symm, fun _ h => Option.some.inj h ▸ ⟨hwf, hb⟩⟩

theorem wramLegal_init (c : Cfg) : WramLegal c (if c.hasWram then some zeros else none) := by
  split
  · next hw => exact wramLegal_some hw zeros_wf (zeros_below _)
  · next hw => exact ⟨by simpa using hw, nofun⟩

theorem wramOffset_lt (a : Addr) : wramOffset a < wramSize := BitVec.isLt _

theorem WramLegal.write {c : Cfg} {m : Memory} (h : WramLegal c (some m)) (a : Addr) (v : Byte) :
    WramLegal c (some (writeByte m (wramOffset a) v)) := by
  obtain ⟨hwf, hb⟩ := h.2 m rfl
  exact wramLegal_some h.1.symm (writeByte_wf _ v hwf) (writeByte_below hb (wramOffset_lt a))

theorem wramLegal_ofImage {c : Cfg} {x : Image} (hw : c.hasWram = true) (hx : x.length = wramSize) :
    WramLegal c (some (ofImage x)) :=
  wramLegal_some hw (ofImage_wf x) (hx ▸ ofImage_below x)

/-- STATE_LOAD leaves legal WRAM: an image of the right size where there is WRAM, and what was there where there is none
(spec R109). -/
theorem WramLegal.load {c : Cfg} {img : Option Image} {old : Option Memory} (h : WramLegal c old)
    (hs : snapshotShapeOk c img = true) : WramLegal c (loadedWram c img old) := by
  unfold loadedWram
  cases hw : c.hasWram with
  | false => exact h
  | true =>
    cases img with
    | none => simp [snapshotShapeOk, hw] at hs
    | some x => exact wramLegal_ofImage hw (by simpa [snapshotShapeOk, hw] using hs)

/-- A Sync of INIT's bank map. -/
theorem Unsynced.sync {c : Cfg} {s : State} (h : Unsynced c s) (latch : Byte) :
    applyCalls (syncCalls c latch) s.bank = syncedBank c latch := by rw [h.2]; rfl

/-- A Sync of a bank map that another Sync made (spec R170). -/
theorem Synced.sync {c : Cfg} {s : State} (h : Synced c s) (latch : Byte) :
    applyCalls (syncCalls c latch) s.bank = syncedBank c latch := by
  obtain ⟨old, -, hb⟩ := h
  rw [hb, applyCalls_syncedBank]

/-! ### Each change keeps the invariant -/

/-- The changes of a command keep the session legal, given that an INIT's record lists its ROM canonically. -/
theorem Change.sessionLegal {i : Instr} {s t : State} (h : Change i s t) (hs : SessionLegal s)
    (hrom : ∀ x, i = .init (some x) → Memory.wf x.prgRom) : SessionLegal t := by
  cases h with
  | init _ hb ht =>
    have hc := cfgLegal_of_bindRecord hb (hrom _ rfl)
    exact ht.sessionLegal ((sessionLegal_unpowered_iff rfl rfl).mpr ⟨hc, wramLegal_init _, rfl, rfl⟩)
  | powerOn hl hc ht =>
    obtain ⟨hcfg, hw, hu⟩ := (sessionLegal_unpowered_iff hl hc).mp hs
    exact ht.sessionLegal ((sessionLegal_powered_iff (s := poweredOnState _ s) rfl hc).mpr
      ⟨hcfg, hw, _, rfl, hu.sync _⟩)
  | latchWrite hl hc _ ht =>
    obtain ⟨hcfg, hw, hy⟩ := (sessionLegal_powered_iff hl hc).mp hs
    exact ht.sessionLegal ((sessionLegal_powered_iff (s := latchedState _ _ s) hl hc).mpr
      ⟨hcfg, hw, _, rfl, hy.sync _⟩)
  | wramWrite hl hc _ hm ht =>
    obtain ⟨hcfg, hw, hy⟩ := (sessionLegal_powered_iff hl hc).mp hs
    rw [hm] at hw
    exact ht.sessionLegal ((sessionLegal_powered_iff (s := wramWrittenState _ _ _ s) hl hc).mpr
      ⟨hcfg, hw.write _ _, hy⟩)
  | loadState hl hc hi ht =>
    obtain ⟨hcfg, hw, hy⟩ := (sessionLegal_powered_iff hl hc).mp hs
    exact ht.sessionLegal ((sessionLegal_powered_iff (s := loadedState _ _ _ s) hl hc).mpr
      ⟨hcfg, hw.load hi, _, rfl, hy.sync _⟩)
  | close hl ht =>
    obtain ⟨c, hc⟩ := hs.cfg_bound hl
    obtain ⟨hcfg, hbank⟩ := hs.unsynced_or_synced hl hc
    exact ht.sessionLegal ((sessionLegal_closed_iff (s := sessionClosedState s) rfl hc).mpr
      ⟨hcfg, rfl, hbank⟩)
  | batteryLoad hl hc hb hx ht =>
    obtain ⟨hcfg, -, hu⟩ := (sessionLegal_unpowered_iff hl hc).mp hs
    have hw := wramLegal_ofImage (hasWram_of_batterySave hb) hx
    exact ht.sessionLegal ((sessionLegal_unpowered_iff (s := batteryLoadedState _ s) hl hc).mpr
      ⟨hcfg, hw, hu⟩)

/-- Settles O10: a step leaves the engine or makes one of the changes, and each keeps the session legal; the queue loses
its first command only. -/
theorem stepKeepsTheSessionInvariant : Obligations.StepKeepsTheSessionInvariant := by
  intro s t hinv h
  obtain ⟨c, rest, hi, hrest, hch⟩ := step_change h
  have hp : ∀ d ∈ c :: rest, PayloadLegal d.payload := hi ▸ hinv.payloads
  refine ⟨?_, fun d hd => hp d (List.mem_cons_of_mem _ (hrest ▸ hd))⟩
  rcases hch with hsame | ⟨i, hd, hch⟩
  · exact hsame.sessionLegal hinv.session
  · refine hch.sessionLegal hinv.session fun x hx => hp c List.mem_cons_self x ?_
    subst hx
    exact (init_of_decode hd).2

end Sys2Proof.Machine
end

section
/-! PROOFS. What INIT and STATE_SAVE answer (spec R38, R100, R108), the conditions derived from the configuration (spec
R22, R23), and the tables derived from `life` and `cfg` (spec R31, R32, R54). -/

namespace Sys2Proof.Machine

/-- In Absent INIT's lifecycle check passes. -/
theorem execInit_absent {s : State} (hl : s.life = .absent) (x : CfgRecord) :
    exec (.init (some x)) s =
      match bindRecord x with
      | .ok c => .next { initState c s with response := some .unit }
      | .error e => .next (faultedState .configInvalid (Instr.init (some x)).word (.check e) s) := by
  simp only [exec, execInit, hl, lifeInit, checked_none]
  cases bindRecord x <;> rfl

/-- Settles O17: what INIT leaves is `initState`, and the bound configuration has the record's header mirroring. -/
theorem initBindsOrRefuses : Obligations.InitBindsOrRefuses := by
  intro s r hl
  refine ⟨fun c hb => ?_, fun e hb => ?_⟩
  · obtain ⟨-, -, v, -, rfl⟩ := bindRecord_ok_iff.mp hb
    rw [execInit_absent hl, hb]
    rfl
  · rw [execInit_absent hl, hb]
    rfl

/-- Settles O19: both conditions are Boolean forms of the formulas of spec R22 and R23. -/
theorem wramIsForcedByDeclaredSizes : Obligations.WramIsForcedByDeclaredSizes := fun c =>
  ⟨by simp [CfgOf.hasWram], by simp [CfgOf.batterySave]⟩

/-- In Powered a command that needs a running session runs its own rule under the bound configuration. -/
theorem withCfg_running {s : State} {c : Cfg} (hl : s.life = .powered) (hc : s.cfg = some c) (w : CmdWord)
    (k : Cfg → Out) : withCfg (lifeRunning s.life) w s k = k c := by
  rw [hl]
  exact withCfg_bound hc w k

/-- Settles O22: STATE_SAVE answers the latch with the WRAM image, or alone. -/
theorem stateSaveAnswersTheSnapshot : Obligations.StateSaveAnswersTheSnapshot := by
  intro s c latch hl hc hlatch
  refine ⟨fun hw => ?_, fun hw m hm => ?_⟩
  · simp [exec, execSaveState, withCfg_running hl hc, hlatch, hw]
  · simp [exec, execSaveState, withCfg_running hl hc, hlatch, hw, hm, toImage, wramSize]

/-! ### The handler table -/

/-- A later entry of a handler table overrides the first one (spec R54). -/
@[simp] theorem handlerFor_cons (h : Handler) (t : List Handler) (k : AccessKind) (a : Addr) :
    handlerFor (h :: t) k a = (handlerFor t k a).or (if covers k a h then some h.target else none) := by
  unfold handlerFor
  cases hc : covers k a h with
  | false => simp [hc]
  | true => cases hf : t.filter (covers k a) <;> simp [hc, hf, List.getLast?_cons]

@[simp] theorem handlerFor_nil (k : AccessKind) (a : Addr) : handlerFor [] k a = none := rfl

@[simp] theorem covers_wram (kind k : AccessKind) (a : Addr) (target : HandlerTarget) :
    covers k a ⟨kind, 0x6000#16, 0x7FFF#16, target⟩ = (kind == k && inWramWin a) := by
  simp [covers, inWramWin, Bool.and_assoc]

@[simp] theorem covers_rom (kind k : AccessKind) (a : Addr) (target : HandlerTarget) :
    covers k a ⟨kind, 0x8000#16, 0xFFFF#16, target⟩ = (kind == k && inRomWin a) := by
  have hmax : a ≤ 0xFFFF#16 := by bv_omega
  simp [covers, inRomWin, hmax]

@[simp] theorem covers_latch (c : Cfg) (kind k : AccessKind) (a : Addr) (target : HandlerTarget) :
    covers k a ⟨kind, c.winLow, c.winHigh, target⟩ = (kind == k && inLatchWin c a) := by
  simp [covers, inLatchWin, Bool.and_assoc]

theorem not_inRomWin_of_inWramWin {a : Addr} (h : inWramWin a = true) : inRomWin a = false := by
  have := inWramWin_iff.mp h
  simp only [inRomWin, decide_eq_false_iff_not]
  bv_omega

/-- The last write handler that covers an address is the one its class names. -/
theorem handlerFor_handlersOf_write (c : Cfg) (a : Addr) :
    handlerFor (handlersOf c) .write a =
      match classifyWrite c a with
      | .latch => some .latch
      | .wram => some .wram
      | .ignored => none := by
  cases hl : inLatchWin c a with
  | true => cases hw : c.hasWram <;> simp [handlersOf, classifyWrite, hl, hw]
  | false =>
    cases hw : c.hasWram with
    | false => simp [handlersOf, classifyWrite, hl, hw]
    | true => cases hm : inWramWin a <;> simp [handlersOf, classifyWrite, hl, hw, hm]

/-- The last read handler that covers an address is the one its class names: the ROM handler comes after the WRAM one,
and the two windows do not meet. -/
theorem handlerFor_handlersOf_read (c : Cfg) (a : Addr) :
    handlerFor (handlersOf c) .read a =
      match classifyRead c a with
      | .wram => some .wram
      | .rom => some .rom
      | .unhandled => none := by
  cases hw : c.hasWram with
  | false => cases hr : inRomWin a <;> simp [handlersOf, classifyRead, hw, hr]
  | true =>
    cases hm : inWramWin a with
    | true =>
      have hr := not_inRomWin_of_inWramWin hm
      simp [handlersOf, classifyRead, hw, hm, hr]
    | false => cases hr : inRomWin a <;> simp [handlersOf, classifyRead, hw, hm, hr]

/-- Settles O41: in Powered the table is the installed one, whose handlers' ranges are the windows of the
classification. -/
theorem handlerTableGivesTheClassification : Obligations.HandlerTableGivesTheClassification := by
  refine ⟨fun s c a hl hc => ?_, fun s hl => ?_⟩
  · have htable : handlerTable s = handlersOf c := by simp [handlerTable, hl, hc]
    rw [htable]
    exact ⟨handlerFor_handlersOf_write c a, handlerFor_handlersOf_read c a⟩
  · unfold handlerTable
    split
    · next h _ => exact absurd h hl
    · rfl

/-! ### The persistence registrations -/

theorem mem_saveRegions {c : Cfg} {g : Region} :
    g ∈ saveRegions c ↔
      g = ⟨.latch, 1, some Config.latchTag⟩ ∨ (c.hasWram = true ∧ g = ⟨.wram, wramSize, some Config.wramTag⟩) := by
  unfold saveRegions
  cases Config.persistOrder <;> cases c.hasWram <;> simp [or_comm]

theorem mem_regionsOf {c : Cfg} {g : Region} :
    g ∈ regionsOf c ↔
      g = ⟨.latch, 1, some Config.latchTag⟩ ∨ (c.hasWram = true ∧ g = ⟨.wram, wramSize, some Config.wramTag⟩) ∨
        (c.batterySave = true ∧ g = ⟨.battery, wramSize, none⟩) := by
  rw [regionsOf, List.mem_append, mem_saveRegions, or_assoc]
  cases c.batterySave <;> simp

theorem registrations_open {s : State} {c : Cfg} (hl : s.life = .unpowered ∨ s.life = .powered)
    (hc : s.cfg = some c) : registrations s = regionsOf c := by
  rcases hl with hl | hl <;> simp [registrations, hl, hc]

/-- Settles O42: the registrations in force are INIT's while the session is open, and there are none outside it. -/
theorem registrationsFollowTheConfiguration : Obligations.RegistrationsFollowTheConfiguration := by
  refine ⟨fun s c hl hc g => ?_, fun s hl => ?_⟩
  · rw [registrations_open hl hc]
    exact mem_regionsOf
  · rcases hl with hl | hl <;> simp [registrations, hl]

end Sys2Proof.Machine
end

section
/-! PROOFS. The bus accesses of a running session: where an address lies and what it selects there (spec R51 to R57),
the sub-operation that each command is (spec R55, R56, R130, R136), and what the sub-operations answer (spec R131 to
R139). -/

namespace Sys2Proof.Machine

/-! ### Windows, classes and offsets -/

theorem inRomWin_iff {a : Addr} : inRomWin a = true ↔ 0x8000#16 ≤ a := by simp [inRomWin]

theorem classifyWrite_ignored_iff {c : Cfg} {a : Addr} :
    classifyWrite c a = .ignored ↔
      ¬ (c.winLow ≤ a ∧ a ≤ c.winHigh) ∧ ¬ (c.hasWram = true ∧ 0x6000#16 ≤ a ∧ a ≤ 0x7FFF#16) := by
  rw [← inLatchWin_iff, ← inWramWin_iff, ← Bool.and_eq_true, classifyWrite]
  split
  · simp [*]
  · split <;> simp [*]

theorem classifyRead_wram_iff {c : Cfg} {a : Addr} :
    classifyRead c a = .wram ↔ c.hasWram = true ∧ 0x6000#16 ≤ a ∧ a ≤ 0x7FFF#16 := by
  rw [← inWramWin_iff, ← Bool.and_eq_true, classifyRead]
  split
  · simp [*]
  · split <;> simp [*]

/-- The WRAM rule comes first, and takes nothing from the ROM window: the two windows do not meet. -/
theorem classifyRead_rom_iff {c : Cfg} {a : Addr} : classifyRead c a = .rom ↔ 0x8000#16 ≤ a := by
  rw [← inRomWin_iff, classifyRead]
  split
  · next h => simp [not_inRomWin_of_inWramWin (Bool.and_eq_true_iff.mp h).2]
  · split <;> simp [*]

theorem classifyRead_unhandled_iff {c : Cfg} {a : Addr} :
    classifyRead c a = .unhandled ↔
      ¬ 0x8000#16 ≤ a ∧ ¬ (c.hasWram = true ∧ 0x6000#16 ≤ a ∧ a ≤ 0x7FFF#16) := by
  rw [← classifyRead_rom_iff (c := c), ← classifyRead_wram_iff]
  cases classifyRead c a <;> simp

/-- `a[12:0]` is `a - 0x6000` in the WRAM window (spec R51). -/
theorem wramOffset_eq {a : Addr} (hlo : 0x6000#16 ≤ a) (hhi : a ≤ 0x7FFF#16) : wramOffset a = a.toNat - 0x6000 := by
  simp only [wramOffset, BitVec.extractLsb'_toNat, Nat.shiftRight_zero]
  bv_omega

/-- `(a - 0x8000) >> 13` in the ROM window (spec R57). -/
theorem prgSlot_eq {a : Addr} (ha : 0x8000#16 ≤ a) : prgSlot a = (a.toNat - 0x8000) / 8192 := by
  have hsub : (a - 0x8000#16).toNat = a.toNat - 0x8000 := by bv_omega
  rw [prgSlot, BitVec.toNat_ushiftRight, hsub, Nat.shiftRight_eq_div_pow]

theorem prgSlot_lt {a : Addr} (ha : 0x8000#16 ≤ a) : prgSlot a < 4 := by
  rw [prgSlot_eq ha]
  omega

theorem physical_eq (c : Cfg) (b : Nat) (a : Addr) :
    physical c b a = b % (2 * c.prgBanks16) * 8192 + a.toNat % 8192 := by
  simp [physical]

theorem romByte_of_slot {bank : BankMap} {a : Addr} {b : Nat} (h : prgGet bank.prg (prgSlot a) = some b) (c : Cfg) :
    romByte c bank a = some (readByte c.prgRom (physical c b a)) := by simp [romByte, h]

/-! ### The accesses after classification -/

/-- The sub-operation of CPU_WRITE for a class of addresses, spec R130. -/
def WriteClass.toInstr (k : WriteClass) (a : Addr) (v : Byte) : Instr :=
  match k with
  | .latch => .latchWrite a v
  | .wram => .wramWrite a v
  | .ignored => .ignoredWrite a v

/-- The sub-operation of CPU_READ for a class of addresses, spec R136. -/
def ReadClass.toInstr (k : ReadClass) (a : Addr) : Instr :=
  match k with
  | .wram => .wramRead a
  | .rom => .romRead a
  | .unhandled => .unhandledRead a

theorem ofClass_same {α : Type} [DecidableEq α] {x k : α} (h : x = k) (o : Out) : ofClass (x == k) o = o := by
  simp [ofClass, h]

theorem ofClass_other {α : Type} [DecidableEq α] {x k : α} (h : x ≠ k) (o : Out) :
    ofClass (x == k) o = .refused .addressOfAnotherOperation := by simp [ofClass, h]

theorem latchWrite_effective {c : Cfg} {a : Addr} {v eff : Byte} {s : State} (h : effective c a v s = .ok eff)
    (w : CmdWord) : latchWrite c w a v s = .next (latchedState c eff s) := by
  simp [latchWrite, h, sync, syncWith, latchedState]

theorem wramWrite_present {s : State} {m : Memory} (hm : s.wram = some m) (a : Addr) (v : Byte) :
    wramWrite a v s = .next (wramWrittenState m a v s) := by simp [wramWrite, hm, wramWrittenState]

theorem wramRead_present {s : State} {m : Memory} (hm : s.wram = some m) (a : Addr) :
    wramRead a s = .next { s with response := some (.byte (some (readByte m (wramOffset a)))) } := by
  simp [wramRead, hm]

theorem romRead_mapped {c : Cfg} {a : Addr} {s : State} {x : Byte} (h : romByte c s.bank a = some x) (w : CmdWord) :
    romRead c w a s = .next { s with response := some (.byte (some x)) } := by simp [romRead, h]

/-! ### The commands and their sub-operations in Powered -/

section
variable {s : State} {c : Cfg} (hl : s.life = .powered) (hc : s.cfg = some c) {a : Addr} {v : Byte}
include hl hc

theorem exec_latchWrite_powered : exec (.latchWrite a v) s =
    ofClass (classifyWrite c a == .latch) (latchWrite c (Instr.latchWrite a v).word a v s) :=
  withCfg_running hl hc ..

theorem exec_wramWrite_powered : exec (.wramWrite a v) s =
    ofClass (classifyWrite c a == .wram) (wramWrite a v s) :=
  withCfg_running hl hc ..

theorem exec_ignoredWrite_powered : exec (.ignoredWrite a v) s =
    ofClass (classifyWrite c a == .ignored) (ignoredWrite s) :=
  withCfg_running hl hc ..

theorem exec_wramRead_powered : exec (.wramRead a) s = ofClass (classifyRead c a == .wram) (wramRead a s) :=
  withCfg_running hl hc ..

theorem exec_romRead_powered : exec (.romRead a) s =
    ofClass (classifyRead c a == .rom) (romRead c (Instr.romRead a).word a s) :=
  withCfg_running hl hc ..

theorem exec_unhandledRead_powered : exec (.unhandledRead a) s =
    ofClass (classifyRead c a == .unhandled) (unhandledRead s) :=
  withCfg_running hl hc ..

/-- CPU_WRITE is the sub-operation of its address's class: both run the same access under the same word. -/
theorem exec_write_of_class {k : WriteClass} (hk : classifyWrite c a = k) :
    exec (.write a v) s = exec (k.toInstr a v) s := by
  have hwrite : exec (.write a v) s = _ := withCfg_running hl hc ..
  rw [hwrite, hk]
  cases k with
  | latch => exact ((exec_latchWrite_powered hl hc).trans (ofClass_same hk _)).symm
  | wram => exact ((exec_wramWrite_powered hl hc).trans (ofClass_same hk _)).symm
  | ignored => exact ((exec_ignoredWrite_powered hl hc).trans (ofClass_same hk _)).symm

/-- CPU_READ is the sub-operation of its address's class. -/
theorem exec_read_of_class {k : ReadClass} (hk : classifyRead c a = k) :
    exec (.read a) s = exec (k.toInstr a) s := by
  have hread : exec (.read a) s = _ := withCfg_running hl hc ..
  rw [hread, hk]
  cases k with
  | wram => exact ((exec_wramRead_powered hl hc).trans (ofClass_same hk _)).symm
  | rom => exact ((exec_romRead_powered hl hc).trans (ofClass_same hk _)).symm
  | unhandled => exact ((exec_unhandledRead_powered hl hc).trans (ofClass_same hk _)).symm

theorem exec_latchWrite_effective {eff : Byte} (hk : classifyWrite c a = .latch) (he : effective c a v s = .ok eff) :
    exec (.latchWrite a v) s = .next (latchedState c eff s) := by
  rw [exec_latchWrite_powered hl hc, ofClass_same hk, latchWrite_effective he]

theorem exec_wramWrite_present {m : Memory} (hk : classifyWrite c a = .wram) (hm : s.wram = some m) :
    exec (.wramWrite a v) s = .next (wramWrittenState m a v s) := by
  rw [exec_wramWrite_powered hl hc, ofClass_same hk, wramWrite_present hm]

theorem exec_ignoredWrite_here (hk : classifyWrite c a = .ignored) :
    exec (.ignoredWrite a v) s = .next { s with response := some (.write false []) } := by
  rw [exec_ignoredWrite_powered hl hc, ofClass_same hk, ignoredWrite, respond_eq]

theorem exec_wramRead_present {m : Memory} (hk : classifyRead c a = .wram) (hm : s.wram = some m) :
    exec (.wramRead a) s = .next { s with response := some (.byte (some (readByte m (wramOffset a)))) } := by
  rw [exec_wramRead_powered hl hc, ofClass_same hk, wramRead_present hm]

theorem exec_romRead_mapped {x : Byte} (hk : classifyRead c a = .rom) (hx : romByte c s.bank a = some x) :
    exec (.romRead a) s = .next { s with response := some (.byte (some x)) } := by
  rw [exec_romRead_powered hl hc, ofClass_same hk, romRead_mapped hx]

theorem exec_unhandledRead_here (hk : classifyRead c a = .unhandled) :
    exec (.unhandledRead a) s = .next { s with response := some (.byte none) } := by
  rw [exec_unhandledRead_powered hl hc, ofClass_same hk, unhandledRead, respond_eq]

end

end Sys2Proof.Machine
end

section
/-! PROOFS. The bank map of a powered session: a Sync fills every slot, so a ROM read never meets ⊥ (spec R57, R58,
R170). -/

namespace Sys2Proof.Machine

theorem prgGet_of_filled (b0 b1 b2 b3 : Nat) {i : Nat} (h : i < 4) :
    ∃ b, prgGet ⟨some b0, some b1, some b2, some b3⟩ i = some b := by
  obtain rfl | rfl | rfl | rfl : i = 0 ∨ i = 1 ∨ i = 2 ∨ i = 3 := by omega
  all_goals exact ⟨_, rfl⟩

theorem chr8Slots_filled (b : Nat) {j : Nat} (h : j < 8) : ∃ b', chrGet (chr8Slots b) j = some b' := by
  obtain rfl | rfl | rfl | rfl | rfl | rfl | rfl | rfl :
    j = 0 ∨ j = 1 ∨ j = 2 ∨ j = 3 ∨ j = 4 ∨ j = 5 ∨ j = 6 ∨ j = 7 := by omega
  all_goals exact ⟨_, rfl⟩

theorem layoutPrg_filled (l : BankLayout) (latch : Byte) (n : Nat) {i : Nat} (h : i < 4) :
    ∃ b, prgGet (layoutPrg l latch n) i = some b := by
  unfold layoutPrg
  cases l.prgMode <;> exact prgGet_of_filled _ _ _ _ h

theorem syncedPrg_filled (v : Variant) (latch : Byte) (n : Nat) {i : Nat} (h : i < 4) :
    ∃ b, prgGet (syncedPrg v latch n) i = some b := by
  cases v with
  | prg16LowSwitch | chr8Switch => exact prgGet_of_filled _ _ _ _ h
  | combined | submapperPolarity => exact layoutPrg_filled _ _ _ h

theorem syncedChr_filled (v : Variant) (latch : Byte) {j : Nat} (h : j < 8) :
    ∃ b, chrGet (syncedChr v latch) j = some b := by
  cases v <;> exact chr8Slots_filled _ h

/-- The bank map after a Sync, whatever it was before: only the mirroring can be left (spec R170). -/
theorem applyCalls_syncCalls (c : Cfg) (latch : Byte) (m : BankMap) :
    applyCalls (syncCalls c latch) m =
      ⟨syncedPrg c.variant latch c.prgBanks16, syncedChr c.variant latch,
        (syncedMirror c.variant latch c.submapper).getD m.mirror⟩ :=
  applyCalls_decodeCalls ..

/-- Settles O44: the slots after a Sync are functions of the variant, the latch and the ROM size, and a Sync hides the
Sync before it. -/
theorem syncKeepsNoHistory : Obligations.SyncKeepsNoHistory := by
  intro c latch m m'
  refine ⟨?_, ?_, fun hmirror => ?_, fun i hi => ?_, fun j hj => ?_, applyCalls_syncCalls_syncCalls c latch latch m⟩
  · rw [applyCalls_syncCalls, applyCalls_syncCalls]
  · rw [applyCalls_syncCalls, applyCalls_syncCalls]
  · rw [applyCalls_syncCalls, applyCalls_syncCalls, hmirror]
  · rw [applyCalls_syncCalls]
    exact syncedPrg_filled _ _ _ hi
  · rw [applyCalls_syncCalls]
    exact syncedChr_filled _ _ hj

theorem SessionLegal.prgSlots_filled {s : State} (hs : SessionLegal s) (hl : s.life = .powered) {i : Nat} (hi : i < 4) :
    ∃ b, prgGet s.bank.prg i = some b := by
  obtain ⟨c, hc⟩ := hs.cfg_bound (by simp [hl])
  obtain ⟨-, -, latch, -, hbank⟩ := (sessionLegal_powered_iff hl hc).mp hs
  rw [hbank, syncedBank, applyCalls_syncCalls]
  exact syncedPrg_filled _ _ _ hi

/-- In a powered session a ROM read finds a bank number in its slot (spec R58). -/
theorem SessionLegal.romByte_defined {s : State} (hs : SessionLegal s) (hl : s.life = .powered) (c : Cfg) {a : Addr}
    (ha : 0x8000#16 ≤ a) : ∃ x, romByte c s.bank a = some x := by
  obtain ⟨b, hb⟩ := hs.prgSlots_filled hl (prgSlot_lt ha)
  exact ⟨_, romByte_of_slot hb c⟩

/-- Settles O56: the bank map of a powered session is a Sync's, which fills every PRG slot. -/
theorem poweredSlotsHoldBankNumbers : Obligations.PoweredSlotsHoldBankNumbers := fun _ c hinv hl _ =>
  ⟨fun _ => hinv.session.prgSlots_filled hl, fun _ => hinv.session.romByte_defined hl c⟩

end Sys2Proof.Machine
end

section
/-! PROOFS. The obligations on bus accesses: which sub-operation a command is (spec R55, R56), and what each writes,
answers and leaves (spec R63, R134 to R138, R236). -/

namespace Sys2Proof.Machine

/-- Settles O30: the class of the address is the one that the clause's window conditions characterise. -/
theorem writesAreDispatchedByAddress : Obligations.WritesAreDispatchedByAddress := fun _ _ _ _ hl hc =>
  ⟨fun h => exec_write_of_class hl hc (classifyWrite_latch_iff.mpr h),
    fun hout hw hlo hhi => exec_write_of_class hl hc (classifyWrite_wram_iff.mpr ⟨hout, hw, hlo, hhi⟩),
    fun hout hn => exec_write_of_class hl hc (classifyWrite_ignored_iff.mpr ⟨hout, hn⟩)⟩

/-- Settles O31: the class of the address is the one that the clause's window conditions characterise. -/
theorem readsAreDispatchedByAddress : Obligations.ReadsAreDispatchedByAddress := fun _ _ _ hl hc =>
  ⟨fun hw hlo hhi => exec_read_of_class hl hc (classifyRead_wram_iff.mpr ⟨hw, hlo, hhi⟩),
    fun ha => exec_read_of_class hl hc (classifyRead_rom_iff.mpr ha),
    fun ha hn => exec_read_of_class hl hc (classifyRead_unhandled_iff.mpr ⟨ha, hn⟩)⟩

/-- Settles O34: the new buffer is the old one with the byte written, and the laws of `writeByte` say what it reads. -/
theorem wramWriteStoresOneByte : Obligations.WramWriteStoresOneByte := by
  intro s c a v m hl hc hw hout hlo hhi hm hwf
  have hk := classifyWrite_wram_iff.mpr ⟨hout, hw, hlo, hhi⟩
  have hrow := exec_wramWrite_present (v := v) hl hc hk hm
  rw [← wramOffset_eq hlo hhi]
  exact ⟨_, hrow, (exec_write_of_class hl hc hk).trans hrow, readByte_writeByte_same _ v hwf,
    fun o ho => readByte_writeByte_other v ho m⟩

/-- Settles O35: the address has the class that no handler covers. -/
theorem ignoredWriteChangesNothing : Obligations.IgnoredWriteChangesNothing := by
  intro s c a v hl hc hout hn
  have hk := classifyWrite_ignored_iff.mpr ⟨hout, hn⟩
  have hrow := exec_ignoredWrite_here (v := v) hl hc hk
  exact ⟨hrow, (exec_write_of_class hl hc hk).trans hrow⟩

/-- Settles O36: the WRAM rule for reads comes first and does not look at the latch window. -/
theorem wramReadAnswersTheByte : Obligations.WramReadAnswersTheByte := by
  intro s c a m hl hc hw hlo hhi hm
  have hk := classifyRead_wram_iff.mpr ⟨hw, hlo, hhi⟩
  have hrow := exec_wramRead_present hl hc hk hm
  rw [← wramOffset_eq hlo hhi]
  exact ⟨hrow, (exec_read_of_class hl hc hk).trans hrow⟩

/-- Settles O37: slot and ROM offset, which the model computes on bits of the address, as quotient and remainder. -/
theorem romReadAnswersTheMappedByte : Obligations.RomReadAnswersTheMappedByte := by
  intro s c a b hl hc ha hb
  have hk := (classifyRead_rom_iff (c := c)).mpr ha
  have hrow := exec_romRead_mapped hl hc hk (romByte_of_slot ((prgSlot_eq ha).symm ▸ hb) c)
  rw [← physical_eq]
  exact ⟨hrow, (exec_read_of_class hl hc hk).trans hrow⟩

/-- A read in a powered session answers a value that the last response has no part in, and changes the response only. -/
theorem SessionLegal.exec_read {s : State} (hs : SessionLegal s) (hl : s.life = .powered) (a : Addr) :
    ∃ b, ∀ r, exec (.read a) { s with response := r } = .next { s with response := some (.byte b) } := by
  obtain ⟨c, hc⟩ := hs.cfg_bound (by simp [hl])
  cases hk : classifyRead c a with
  | wram =>
    obtain ⟨m, hm⟩ := hs.wram_present hc (.inr hl) (classifyRead_wram_iff.mp hk).1
    exact ⟨_, fun r => (exec_read_of_class (s := { s with response := r }) hl hc hk).trans
      (exec_wramRead_present (s := { s with response := r }) hl hc hk hm)⟩
  | rom =>
    obtain ⟨x, hx⟩ := hs.romByte_defined hl c (classifyRead_rom_iff.mp hk)
    exact ⟨_, fun r => (exec_read_of_class (s := { s with response := r }) hl hc hk).trans
      (exec_romRead_mapped (s := { s with response := r }) hl hc hk hx)⟩
  | unhandled =>
    exact ⟨_, fun r => (exec_read_of_class (s := { s with response := r }) hl hc hk).trans
      (exec_unhandledRead_here (s := { s with response := r }) hl hc hk)⟩

/-- Settles O39: the state after the first read differs from the present one in the response only, so the second read
answers the same. -/
theorem readsHaveNoSideEffect : Obligations.ReadsHaveNoSideEffect := by
  intro s a hinv hl
  obtain ⟨b, hread⟩ := hinv.session.exec_read hl a
  exact ⟨b, hread s.response, hread _⟩

/-- Settles O40: a sub-operation runs under `ofClass` of its own class. -/
theorem subOperationsStopOutsideTheirAddresses : Obligations.SubOperationsStopOutsideTheirAddresses :=
  fun _ _ _ _ hl hc =>
    ⟨fun h => (exec_latchWrite_powered hl hc).trans (ofClass_other h _),
      fun h => (exec_wramWrite_powered hl hc).trans (ofClass_other h _),
      fun h => (exec_ignoredWrite_powered hl hc).trans (ofClass_other h _),
      fun h => (exec_wramRead_powered hl hc).trans (ofClass_other h _),
      fun h => (exec_romRead_powered hl hc).trans (ofClass_other h _),
      fun h => (exec_unhandledRead_powered hl hc).trans (ofClass_other h _)⟩

/-- Settles O59: the write is a latch write, which keeps `life`, `cfg` and WRAM, so O36 gives the read after it. -/
theorem overlapOfLatchAndWramWindows : Obligations.OverlapOfLatchAndWramWindows := by
  intro s c a v m hl hc hw hconflict hlow hhigh hlo hhi hm
  have hk := classifyWrite_latch_iff.mpr ⟨hlow, hhigh⟩
  have heff : effective c a v s = .ok v := by simp [effective, hconflict]
  have hwrite := (exec_write_of_class hl hc hk).trans (exec_latchWrite_effective hl hc hk heff)
  exact ⟨latchedState c v s, hwrite, rfl, hm,
    (wramReadAnswersTheByte (latchedState c v s) c a m hl hc hw hlo hhi hm).2⟩

/-! ### Battery save data -/

theorem lifeBatterySave_open {l : Life} (h : l = .unpowered ∨ l = .powered) : lifeBatterySave l = none := by
  rcases h with rfl | rfl <;> rfl

/-- Settles O27: the lifecycle check passes, and the image is the buffer's bytes by offset. -/
theorem batterySaveAnswersTheImage : Obligations.BatterySaveAnswersTheImage := by
  intro s c m hl hc hb hm
  simp [exec, execBatterySave, lifeBatterySave_open hl, withCfg_bound hc, hb, hm, toImage, wramSize]

end Sys2Proof.Machine
end

section
/-! PROOFS. The encoding: decode and encode are inverse to each other, and which words decode rejects (spec R70 to R78). -/

namespace Sys2Proof

open Sys2Proof.Laws

/-- Only the bank calls have no encoding: a Sync issues them (spec R161). -/
theorem encode_internal_iff (i : Instr) : encode i = .internal ↔
    ((∃ w b, i = .setPrg8 w b) ∨ (∃ w b, i = .setPrg16 w b) ∨ (∃ b, i = .setPrg32 b) ∨ (∃ w b, i = .setChr1 w b) ∨
     (∃ w b, i = .setChr4 w b) ∨ (∃ b, i = .setChr8 b) ∨ ∃ m, i = .setMirror m) := by
  constructor
  · intro h
    cases i with
    | setPrg8 | setPrg16 | setPrg32 | setChr1 | setChr4 | setChr8 | setMirror => simp
    | _ => cases h
  · rintro (⟨w, b, rfl⟩ | ⟨w, b, rfl⟩ | ⟨b, rfl⟩ | ⟨w, b, rfl⟩ | ⟨w, b, rfl⟩ | ⟨b, rfl⟩ | ⟨m, rfl⟩) <;> rfl

/-- The round trip of every instruction, from the lemma of its constructor. -/
theorem roundTrip : ∀ i : Instr, RoundTrip.Statement i
  | .init cfg => RoundTrip.init cfg
  | .powerOn => RoundTrip.powerOn
  | .write a v => RoundTrip.write a v
  | .read a => RoundTrip.read a
  | .saveState => RoundTrip.saveState
  | .loadState d img => RoundTrip.loadState d img
  | .close => RoundTrip.close
  | .batteryLoad img => RoundTrip.batteryLoad img
  | .batterySave => RoundTrip.batterySave
  | .reservedOp9 rest => RoundTrip.reservedOp9 rest
  | .reservedOpA rest => RoundTrip.reservedOpA rest
  | .reservedOpB rest => RoundTrip.reservedOpB rest
  | .reservedOpC rest => RoundTrip.reservedOpC rest
  | .reservedOpD rest => RoundTrip.reservedOpD rest
  | .reservedOpE rest => RoundTrip.reservedOpE rest
  | .reservedOpF rest => RoundTrip.reservedOpF rest
  | .latchWrite a v => RoundTrip.latchWrite a v
  | .wramWrite a v => RoundTrip.wramWrite a v
  | .ignoredWrite a v => RoundTrip.ignoredWrite a v
  | .wramRead a => RoundTrip.wramRead a
  | .romRead a => RoundTrip.romRead a
  | .unhandledRead a => RoundTrip.unhandledRead a
  | .prg16LowSwitch => RoundTrip.prg16LowSwitch
  | .chr8Switch => RoundTrip.chr8Switch
  | .combined p => RoundTrip.combined p
  | .submapperPolarity p => RoundTrip.submapperPolarity p
  | .reservedVariant4 => RoundTrip.reservedVariant4
  | .reservedVariant5 => RoundTrip.reservedVariant5
  | .reservedVariant6 => RoundTrip.reservedVariant6
  | .reservedVariant7 => RoundTrip.reservedVariant7
  | .reservedVariant8 => RoundTrip.reservedVariant8
  | .reservedVariant9 => RoundTrip.reservedVariant9
  | .reservedVariant10 => RoundTrip.reservedVariant10
  | .reservedVariant11 => RoundTrip.reservedVariant11
  | .reservedVariant12 => RoundTrip.reservedVariant12
  | .reservedVariant13 => RoundTrip.reservedVariant13
  | .reservedVariant14 => RoundTrip.reservedVariant14
  | .reservedVariant15 => RoundTrip.reservedVariant15
  | .setPrg8 w b => RoundTrip.setPrg8 w b
  | .setPrg16 w b => RoundTrip.setPrg16 w b
  | .setPrg32 b => RoundTrip.setPrg32 b
  | .setChr1 w b => RoundTrip.setChr1 w b
  | .setChr4 w b => RoundTrip.setChr4 w b
  | .setChr8 b => RoundTrip.setChr8 b
  | .setMirror m => RoundTrip.setMirror m

/-- Settles O2: each constructor's round trip, and the constructors without an encoding. -/
theorem decodeInvertsEncode : Obligations.DecodeInvertsEncode := ⟨roundTrip, encode_internal_iff⟩

/-- Settles O3: an accepted word is its instruction's command word. -/
theorem encodeInvertsDecode : Obligations.EncodeInvertsDecode := fun _ _ _ h => word_of_decode h

/-- The word of a command, with its payload, decodes to the command. -/
theorem decode_word {i : Instr} (h : i.IsCommand) : decode i.word i.payload = .ok i := by
  have htrip : decodeEncoding (encode i) = some i.command := Or.resolve_left (roundTrip i) h.encoded
  obtain ⟨hencode, hself⟩ := h
  rw [hencode, hself, decodeEncoding] at htrip
  cases hd : decode i.word i.payload with
  | ok j => simpa [hd, Except.toOption] using htrip
  | error e => simp [hd, Except.toOption] at htrip

/-! ### Rejected words -/

theorem fieldsOk_eq_error {ok : Bool} {i : Instr} : fieldsOk ok i = .error .reservedField ↔ ok = false := by
  cases ok <;> simp [fieldsOk]

/-- A field that the word's operation leaves unused is not 0 (spec R72). -/
def UnusedFieldNonzero (w : CmdWord) : Prop :=
  rsvField w ≠ 0#4 ∨
    (addrField w ≠ 0#16 ∧ (opField w).toNat ≠ 2 ∧ (opField w).toNat ≠ 3) ∨
    (dataField w ≠ 0#8 ∧ (opField w).toNat ≠ 2 ∧ (opField w).toNat ≠ 5)

/-- A word whose `OP` is a command's is rejected exactly when a field that its operation leaves unused is not 0. -/
theorem decode_rejected_iff {w : CmdWord} (p : Payload) (hop : (opField w).toNat ≤ 8) :
    decode w p = .error .reservedField ↔ UnusedFieldNonzero w := by
  unfold decode UnusedFieldNonzero
  split
  case h_1 h | h_2 h | h_3 h | h_4 h | h_5 h | h_6 h | h_7 h | h_8 h | h_9 h =>
    simp only [fieldsOk_eq_error, Bool.and_eq_false_iff, beq_eq_false_iff_ne, h]
    simp [or_assoc]
  case h_10 h | h_11 h | h_12 h | h_13 h | h_14 h | h_15 h => omega
  case h_16 => simp only [imp_false] at *; omega

/-- Settles O1: an accepted word is the word of its command, and each rejected one has a nonzero field that its operation
leaves unused: `RSV`, or else DATA or ADDR. -/
theorem wordsOfTheSpecDecode : Obligations.WordsOfTheSpecDecode := fun r img =>
  ⟨decode_word (i := .init r) ⟨rfl, rfl⟩,
    decode_word (i := .powerOn) ⟨rfl, rfl⟩,
    decode_word (i := .write 0x8000#16 0x05#8) ⟨rfl, rfl⟩,
    decode_word (i := .write 0xFFFF#16 0xF3#8) ⟨rfl, rfl⟩,
    decode_word (i := .write 0x0000#16 0x00#8) ⟨rfl, rfl⟩,
    decode_word (i := .read 0xFFFC#16) ⟨rfl, rfl⟩,
    decode_word (i := .saveState) ⟨rfl, rfl⟩,
    decode_word (i := .loadState 0x12#8 img) ⟨rfl, rfl⟩,
    decode_word (i := .close) ⟨rfl, rfl⟩,
    decode_word (i := .batteryLoad img) ⟨rfl, rfl⟩,
    decode_word (i := .batterySave) ⟨rfl, rfl⟩,
    decode_word (i := .reservedOp9 0#28) ⟨rfl, rfl⟩,
    decode_word (i := .reservedOpF 0#28) ⟨rfl, rfl⟩,
    (decode_rejected_iff {} (by decide)).mpr (.inl (by decide)),
    (decode_rejected_iff {} (by decide)).mpr (.inr (.inr (by decide))),
    (decode_rejected_iff {} (by decide)).mpr (.inr (.inr (by decide))),
    (decode_rejected_iff {} (by decide)).mpr (.inr (.inl (by decide)))⟩

end Sys2Proof
end

section
/-! PROOFS. What the engine refuses before it runs a command's rule: rejected words, reserved opcodes, reserved variant
tags (spec R72, R73, R77, R176), and images of the wrong shape (spec R109, R113, R114, R204). -/

namespace Sys2Proof.Machine

/-! ### Words -/

theorem runCommand_rejected {w : CmdWord} {p : Payload} (h : decode w p = .error .reservedField) (s : State) :
    runCommand ⟨w, p⟩ s = .next (faultedState .reservedField w .nothing s) := by
  rw [runCommand, h]
  exact raise_eq ..

theorem runCommand_decoded {w : CmdWord} {p : Payload} {i : Instr} (h : decode w p = .ok i) (s : State) :
    runCommand ⟨w, p⟩ s = exec i s := by
  rw [runCommand, h]

/-- Settles O4: the rejected words are those with a nonzero unused field, and running one raises. -/
theorem unusedFieldsMustBeZero : Obligations.UnusedFieldsMustBeZero := fun _ p s hop =>
  ⟨decode_rejected_iff p hop, fun h => runCommand_rejected h s⟩

/-- `i` raises `F_ILLEGAL_OP` in every state, under its own word. -/
def RaisesIllegalOp (i : Instr) : Prop := ∀ s, exec i s = .next (faultedState .illegalOp i.word .nothing s)

/-- A word with a reserved `OP` decodes, whatever its other bits, to an instruction that raises `F_ILLEGAL_OP`. -/
theorem decode_reservedOp {w : CmdWord} (p : Payload) (hop : 9 ≤ (opField w).toNat) :
    ∃ i, decode w p = .ok i ∧ RaisesIllegalOp i := by
  unfold decode
  split
  case h_1 h | h_2 h | h_3 h | h_4 h | h_5 h | h_6 h | h_7 h | h_8 h | h_9 h => omega
  case h_10 | h_11 | h_12 | h_13 | h_14 | h_15 | h_16 => exact ⟨_, rfl, fun _ => rfl⟩

/-- Settles O5: the word decodes to a reserved opcode's instruction, whose word it is. -/
theorem reservedOpcodesRaiseIllegalOp : Obligations.ReservedOpcodesRaiseIllegalOp := by
  refine ⟨fun w p s hop => ?_, fun x s => ⟨rfl, rfl, rfl, rfl, rfl, rfl, rfl⟩⟩
  obtain ⟨i, hd, hi⟩ := decode_reservedOp p hop
  rw [runCommand_decoded hd, hi s, word_of_decode hd]

/-! ### Reserved variant tags -/

theorem decodeVariant_reserved {r : VariantRecord} (h : 4 ≤ r.tag.toNat) : decodeVariant r = .error .variantTag := by
  unfold decodeVariant
  split
  case h_1 ht | h_2 ht | h_3 ht | h_4 ht => omega
  case h_5 => rfl

/-- A record with a reserved tag fails a check of spec R100: the tag's, unless one before it fails. -/
theorem bindRecord_reserved {r : CfgRecord} (h : 4 ≤ r.variant.tag.toNat) :
    ∃ e, bindRecord r = .error e ∧ (r.winLow ≤ r.winHigh → 1 ≤ r.prgBanks16 → e = .variantTag) := by
  unfold bindRecord
  split
  · split
    · exact ⟨.variantTag, by rw [decodeVariant_reserved h], fun _ _ => rfl⟩
    · next hn => exact ⟨_, rfl, fun _ h => absurd h hn⟩
  · next hw => exact ⟨_, rfl, fun h => absurd h hw⟩

theorem refuseTag_absent {s : State} (hl : s.life = .absent) (w : CmdWord) :
    refuseTag w s = .next (faultedState .configInvalid w (.check .variantTag) s) := by
  rw [refuseTag, hl]
  exact raise_eq ..

/-- Settles O18: `bindRecord` fails on such a record, and a reserved-variant row is `refuseTag` under INIT's word. -/
theorem reservedVariantTagsAreRefused : Obligations.ReservedVariantTagsAreRefused := by
  refine ⟨fun s r hl htag => ?_, fun s hl => ?_⟩
  · obtain ⟨e, hbind, hcheck⟩ := bindRecord_reserved htag
    exact ⟨e, (initBindsOrRefuses s r hl).2 e hbind, hcheck⟩
  · have h := refuseTag_absent hl 0x00000000#32
    exact ⟨h, h, h, h, h, h, h, h, h, h, h, h⟩

/-! ### Images -/

/-- The wrong shapes for STATE_LOAD: no image of 8192 bytes where there is WRAM, and any image where there is none. -/
theorem snapshotShapeOk_false_iff {c : Cfg} {img : Option Image} : snapshotShapeOk c img = false ↔
    (c.hasWram = true ∧ ∀ x, img = some x → x.length ≠ 8192) ∨ (c.hasWram = false ∧ img ≠ none) := by
  cases hw : c.hasWram <;> cases img <;> simp [snapshotShapeOk, hw, wramSize]

theorem word_batteryLoad (img : Option Image) : (Instr.batteryLoad img).word = 0x70000000#32 := rfl

theorem word_batterySave : Instr.batterySave.word = 0x80000000#32 := rfl

section
variable {s : State} {c : Cfg} (hc : s.cfg = some c)
include hc

theorem exec_loadState_wrongShape {img : Option Image} (hl : s.life = .powered) (h : snapshotShapeOk c img = false)
    (d : Byte) : exec (.loadState d img) s =
      .next (faultedState .snapshotShape (Instr.loadState d img).word (.payloadLength (img.map List.length)) s) := by
  simp [exec, execLoadState, withCfg_running hl hc, h]

theorem exec_batteryLoad_noBattery (hl : s.life = .unpowered) (hb : c.batterySave = false) (img : Option Image) :
    exec (.batteryLoad img) s = .next (faultedState .noBattery 0x70000000#32 .nothing s) := by
  simp [exec, execBatteryLoad, hl, lifeBatteryLoad, withCfg_bound hc, hb, word_batteryLoad]

theorem exec_batteryLoad_wrongShape {img : Option Image} (hl : s.life = .unpowered) (hb : c.batterySave = true)
    (hx : ∀ x, img = some x → x.length ≠ 8192) : exec (.batteryLoad img) s =
      .next (faultedState .snapshotShape 0x70000000#32 (.payloadLength (img.map List.length)) s) := by
  simp only [exec, execBatteryLoad, hl, lifeBatteryLoad, withCfg_bound hc, hb, if_true]
  cases img with
  | none => rfl
  | some x => exact if_neg (hx x rfl)

theorem exec_batterySave_noBattery (hl : s.life = .unpowered ∨ s.life = .powered) (hb : c.batterySave = false) :
    exec .batterySave s = .next (faultedState .noBattery 0x80000000#32 .nothing s) := by
  simp [exec, execBatterySave, lifeBatterySave_open hl, withCfg_bound hc, hb, word_batterySave]

end

/-- Settles O29: each clause is the refusal of its command. -/
theorem imagesOfWrongShapeAreRefused : Obligations.ImagesOfWrongShapeAreRefused := fun _ _ d img hc =>
  ⟨fun hl hshape => exec_loadState_wrongShape hc hl (snapshotShapeOk_false_iff.mpr hshape) d,
    fun hl hb => exec_batteryLoad_noBattery hc hl hb img,
    fun hl hb hx => exec_batteryLoad_wrongShape hc hl hb hx,
    fun hl hb => exec_batterySave_noBattery hc hl hb⟩

end Sys2Proof.Machine
end

section
/-! PROOFS. The assembler: a line assembles to the word and payload of the instruction its tokens name (spec R79, R80). -/

namespace Sys2Proof.Machine

theorem assembleLine_instr {x : AsmContext} {line t : List Char} {operands : List (List Char)} {op : AsmOp} {i : Instr}
    (ht : tokens [] (stripComment line) = t :: operands) (hop : asmOp t = some op)
    (hi : asmInstr x op operands = some i) : assembleLine x line = some ⟨i.word, i.payload⟩ := by
  simp [assembleLine, ht, hop, hi]

/-- Settles O60: each line's mnemonic, operands and instruction, and the word of that instruction. -/
theorem assemblerLinesOfTheSpec : Obligations.AssemblerLinesOfTheSpec := fun r img =>
  ⟨assembleLine_instr (op := .init) (i := .init r) rfl rfl rfl,
    assembleLine_instr (op := .powerOn) (i := .powerOn) rfl rfl rfl,
    assembleLine_instr (op := .write) (i := .write 0x8000#16 0x05#8) rfl rfl rfl,
    assembleLine_instr (op := .write) (i := .write 0xFFFF#16 0xF3#8) rfl rfl rfl,
    assembleLine_instr (op := .read) (i := .read 0xFFFC#16) rfl rfl rfl,
    assembleLine_instr (op := .saveState) (i := .saveState) rfl rfl rfl,
    assembleLine_instr (op := .loadState) (i := .loadState 0x12#8 none) rfl rfl rfl,
    assembleLine_instr (op := .loadState) (i := .loadState 0x12#8 (some (List.replicate 8192 0x00#8))) rfl rfl rfl,
    assembleLine_instr (op := .close) (i := .close) rfl rfl rfl,
    assembleLine_instr (op := .batteryLoad) (i := .batteryLoad (some img)) rfl rfl rfl,
    assembleLine_instr (op := .batterySave) (i := .batterySave) rfl rfl rfl,
    assembleLine_instr (op := .write) (i := .write 0x0000#16 0x00#8) rfl rfl rfl⟩

end Sys2Proof.Machine
end

section
/-! PROOFS. Images and memories are inverse to each other: a memory in canonical form is what its bytes read, and the
8192 bytes read out of WRAM are the image it was filled from (spec R60, R102). -/

namespace Sys2Proof.Machine

/-- In canonical form the listed bytes are the nonzero bytes read. -/
theorem Memory.wf.mem_iff {m : Memory} (hm : Memory.wf m) (c : Host.Cell) :
    c ∈ m ↔ c.2 ≠ 0#8 ∧ readByte m c.1 = c.2 := by
  induction m with
  | nil => exact ⟨nofun, fun ⟨hne, hread⟩ => absurd hread.symm hne⟩
  | cons d m ih =>
    obtain ⟨hp, hz⟩ := hm
    obtain ⟨habove, hp⟩ := List.pairwise_cons.mp hp
    obtain ⟨hd, hz⟩ := List.forall_mem_cons.mp hz
    specialize ih ⟨hp, hz⟩
    obtain ⟨k, b⟩ := d
    obtain ⟨a, v⟩ := c
    rw [List.mem_cons, readByte]
    by_cases hk : k = a
    · subst hk
      have hout : (k, v) ∉ m := fun h => Nat.lt_irrefl k (habove (k, v) h)
      simp only [hout, or_false, if_true, Prod.mk.injEq, true_and]
      exact ⟨fun h => ⟨h ▸ hd, h.symm⟩, fun h => h.2.symm⟩
    · simpa [hk, Ne.symm hk] using ih

/-- Memories in canonical form that read the same bytes are the same. -/
theorem Memory.wf.ext {m n : Memory} (hm : Memory.wf m) (hn : Memory.wf n) (h : ∀ a, readByte m a = readByte n a) :
    m = n :=
  hm.1.eq_of_mem_iff hn.1 fun c => by rw [hm.mem_iff, hn.mem_iff, h]

theorem readByte_eq_zero_of_below {m : Memory} {n a : Nat} (hm : Memory.below n m) (ha : n ≤ a) :
    readByte m a = 0#8 :=
  readByte_of_not_listed fun c hc => Nat.ne_of_lt (Nat.lt_of_lt_of_le (hm c hc) ha)

theorem getElem?_toImage (m : Memory) (i : Nat) :
    (toImage m)[i]? = if i < wramSize then some (readByte m i) else none := by
  rw [toImage, List.getElem?_map]
  split
  · next h => rw [List.getElem?_range h]; rfl
  · next h => rw [List.getElem?_eq_none (by simpa using h)]; rfl

/-- Saved and loaded again, WRAM is as it was. -/
theorem ofImage_toImage {m : Memory} (hm : Memory.wf m) (hb : Memory.below wramSize m) : ofImage (toImage m) = m := by
  refine (ofImage_wf _).ext hm fun a => ?_
  rw [readByte_ofImage, List.getD_eq_getElem?_getD, getElem?_toImage]
  split
  · rfl
  · next ha => exact (readByte_eq_zero_of_below hb (Nat.le_of_not_lt ha)).symm

/-- Loaded and saved again, an image of 8192 bytes is as it was. -/
theorem toImage_ofImage {x : Image} (hx : x.length = wramSize) : toImage (ofImage x) = x := by
  refine List.ext_getElem? fun i => ?_
  rw [getElem?_toImage, readByte_ofImage, List.getD_eq_getElem?_getD, ← hx]
  split
  · next hi => rw [List.getElem?_eq_getElem hi]; rfl
  · next hi => exact (List.getElem?_eq_none (Nat.le_of_not_lt hi)).symm

theorem eq_zero_of_mem_toImage_zeros {b : Byte} (h : b ∈ toImage zeros) : b = 0x00#8 := by
  obtain ⟨i, -, rfl⟩ := List.mem_map.mp h
  exact readByte_nil i

end Sys2Proof.Machine
end

section
/-! PROOFS. The lifecycle commands where they do not fault: what INIT allocates, what POWER_ON, STATE_LOAD, CLOSE and
BATTERY_LOAD leave, and what a save answers after a load (spec R102 to R114). -/

namespace Sys2Proof.Machine

/-- INIT with a record that binds leaves `initState` (spec R100). -/
theorem exec_init_bound {s : State} {r : CfgRecord} {c : Cfg} (hl : s.life = .absent) (hb : bindRecord r = .ok c) :
    exec (.init (some r)) s = .next { initState c s with response := some .unit } := by
  rw [execInit_absent hl, hb]

/-- Settles O20: `initState` looks at no declared size but through `hasWram`. -/
theorem initAllocatesFixedZeroedWram : Obligations.InitAllocatesFixedZeroedWram := by
  intro s r c hl hb hw
  refine ⟨_, zeros, exec_init_bound hl hb, if_pos hw, toImage_length zeros, fun b => eq_zero_of_mem_toImage_zeros, ?_⟩
  intro d e c' hb' hw'
  exact ⟨_, exec_init_bound hl hb', if_pos hw'⟩

/-- A Sync of a latch that holds a value applies its calls (spec R161). -/
theorem sync_latched {s : State} {latch : Byte} (h : s.latch = some latch) (c : Cfg) (w : CmdWord)
    (k : List BankCall → State → Out) :
    sync c w s k = k (syncCalls c latch) { s with bank := applyCalls (syncCalls c latch) s.bank } :=
  syncWith_latched h _ w k

/-- Settles O21: the lifecycle check passes, and the Sync reads the initial latch. -/
theorem powerOnResetsLatchThenSyncs : Obligations.PowerOnResetsLatchThenSyncs := by
  intro s c hl hc
  simp [exec, execPowerOn, hl, lifePowerOn, withCfg_bound hc, sync_latched]

/-- STATE_LOAD with an image of the right shape loads it and syncs from the loaded latch (spec R109, R110). -/
theorem exec_loadState_rightShape {s : State} {c : Cfg} {img : Option Image} (hl : s.life = .powered)
    (hc : s.cfg = some c) (h : snapshotShapeOk c img = true) (d : Byte) :
    exec (.loadState d img) s = .next { loadedState c d img s with response := some (.calls (syncCalls c d)) } := by
  simp [exec, execLoadState, withCfg_running hl hc, h, sync_latched, loadedState]

/-- Settles O23: both shapes are right, and `loadedWram` gives the image with WRAM and the present WRAM without. -/
theorem stateLoadRestoresThenSyncs : Obligations.StateLoadRestoresThenSyncs := by
  refine fun s c d hl hc => ⟨fun hw x hx => ?_, fun hw => ?_, readByte_ofImage⟩
  · rw [exec_loadState_rightShape hl hc (by simp [snapshotShapeOk, hw, hx, wramSize])]
    simp [loadedState, loadedWram, hw]
  · rw [exec_loadState_rightShape hl hc (by simp [snapshotShapeOk, hw])]
    simp [loadedState, loadedWram, hw]

/-- With WRAM, STATE_SAVE answers the latch and the buffer read out (spec R108). -/
theorem exec_saveState_wram {s : State} {c : Cfg} {latch : Byte} {m : Memory} (hl : s.life = .powered)
    (hc : s.cfg = some c) (hw : c.hasWram = true) (hlatch : s.latch = some latch) (hm : s.wram = some m) :
    exec .saveState s = .next { s with response := some (.snapshot latch (some (toImage m))) } :=
  (stateSaveAnswersTheSnapshot s c latch hl hc hlatch).2 hw m hm

/-- Settles O24: the snapshot's image is read out of the buffer, and filled from it a buffer is the same; so the second
save reads the same latch and buffer. -/
theorem snapshotRoundTripsThroughAFreshInstance : Obligations.SnapshotRoundTripsThroughAFreshInstance := by
  intro s s' c latch m hl hc hlatch hm hw hwf hbelow hl' hc'
  have hload := (stateLoadRestoresThenSyncs s' c latch hl' hc').1 hw (toImage m) (toImage_length m)
  rw [ofImage_toImage hwf hbelow] at hload
  exact ⟨toImage m, _, exec_saveState_wram hl hc hw hlatch hm, hload, rfl, rfl,
    exec_saveState_wram hl' hc' hw rfl rfl⟩

/-- CLOSE passes its lifecycle check in every state but Absent (spec R203). -/
theorem lifeClose_session {l : Life} (h : l ≠ .absent) : lifeClose l = none := by
  cases l with
  | absent => exact absurd rfl h
  | unpowered | powered | closed => rfl

theorem exec_close_session {s : State} (hl : s.life ≠ .absent) :
    exec .close s = .next { sessionClosedState s with response := some .unit } := by
  simp [exec, execClose, lifeClose_session hl, sessionClosedState]

/-- Settles O25: CLOSE applies to its own result, which is Closed and holds no WRAM. -/
theorem closeReleasesWramAndIsIdempotent : Obligations.CloseReleasesWramAndIsIdempotent := fun _ hl =>
  ⟨exec_close_session hl, exec_close_session nofun⟩

/-- Settles O26: the lifecycle check, the battery check and the shape check pass. -/
theorem batteryLoadFillsWram : Obligations.BatteryLoadFillsWram := by
  intro s c x hl hc hb hx
  simp [exec, execBatteryLoad, hl, lifeBatteryLoad, withCfg_bound hc, hb, hx, wramSize]

/-- BATTERY_SAVE answers the image that the buffer was filled from (spec R114). -/
theorem exec_batterySave_ofImage {s : State} {c : Cfg} {x : Image} (hl : s.life = .unpowered ∨ s.life = .powered)
    (hc : s.cfg = some c) (hb : c.batterySave = true) (hx : x.length = wramSize) (hm : s.wram = some (ofImage x)) :
    exec .batterySave s = .next { s with response := some (.image x) } := by
  have h := batterySaveAnswersTheImage s c (ofImage x) hl hc hb hm
  rwa [← wramSize, ← toImage, toImage_ofImage hx] at h

/-- Settles O28: BATTERY_LOAD fills the buffer from the image, and POWER_ON leaves it. -/
theorem batteryImageRoundTrips : Obligations.BatteryImageRoundTrips := by
  intro s c x hl hc hb hx
  exact ⟨_, _, batteryLoadFillsWram s c x hl hc hb hx, exec_batterySave_ofImage (.inl hl) hc hb hx rfl,
    powerOnResetsLatchThenSyncs _ c hl hc, exec_batterySave_ofImage (.inr rfl) hc hb hx rfl⟩

end Sys2Proof.Machine
end

section
/-! PROOFS. Latch writes under bus conflicts: when a write has an effective value and which fault it raises where it has
none (spec R131 to R133, R234); and the read that no region serves (spec R139). -/

namespace Sys2Proof.Machine

/-! ### The effective value -/

/-- A latch write has an effective value exactly as spec R131 and R132 give it. -/
theorem effective_ok_iff {c : Cfg} {a : Addr} {v e : Byte} {s : State} :
    effective c a v s = .ok e ↔
      (c.busConflict = false ∧ e = v) ∨
      (c.busConflict = true ∧ 0x8000#16 ≤ a ∧ ∃ b, romByte c s.bank a = some b ∧ e = v &&& b) := by
  rw [← inRomWin_iff]
  refine ⟨effective_ok, ?_⟩
  rintro (⟨hconflict, rfl⟩ | ⟨hconflict, hrom, b, hb, rfl⟩)
  · simp [effective, hconflict]
  · simp [effective, hconflict, hrom, hb]

/-- Under bus conflicts, outside the ROM window there is no byte to conflict with (spec R133). -/
theorem effective_outside_rom {c : Cfg} {a : Addr} (hconflict : c.busConflict = true) (ha : ¬ 0x8000#16 ≤ a) (v : Byte)
    (s : State) : effective c a v s = .error (.conflictUnmapped, .addr a) := by
  rw [← inRomWin_iff] at ha
  simp [effective, hconflict, ha]

/-- In the ROM window, the one fault of a latch write is a ⊥ slot's (spec R57). -/
theorem effective_error_in_rom {c : Cfg} {a : Addr} {v : Byte} {s : State} {f : FaultCode} {o : FaultOperand}
    (ha : 0x8000#16 ≤ a) (h : effective c a v s = .error (f, o)) : f = .notPowered := by
  rw [effective, if_pos (inRomWin_iff.mpr ha)] at h
  split at h
  · split at h
    · cases h
    · cases h; rfl
  · cases h

theorem latchWrite_error {c : Cfg} {a : Addr} {v : Byte} {s : State} {f : FaultCode} {o : FaultOperand}
    (h : effective c a v s = .error (f, o)) (w : CmdWord) : latchWrite c w a v s = raise f w o s := by
  simp [latchWrite, h]

/-- Settles O32: the effective value is the one the address and the bank map give, and the write leaves `latchedState`
of it. -/
theorem latchWriteStoresTheEffectiveValue : Obligations.LatchWriteStoresTheEffectiveValue := by
  intro s c a v e hl hc hlow hhigh he
  have hk := classifyWrite_latch_iff.mpr ⟨hlow, hhigh⟩
  have hrow := exec_latchWrite_effective hl hc hk (effective_ok_iff.mpr he)
  exact ⟨hrow, (exec_write_of_class hl hc hk).trans hrow⟩

/-- Settles O58: by O32 the latch holds `v &&& b`, which is `v` exactly when `b` has the bits of `v`. -/
theorem busConflictHazard : Obligations.BusConflictHazard := by
  intro s c a v b hl hc hconflict hlow hhigh ha hb
  have hwrite := (latchWriteStoresTheEffectiveValue s c a v (v &&& b) hl hc hlow hhigh
    (.inr ⟨hconflict, ha, b, hb, rfl⟩)).2
  refine ⟨_, hwrite, ?_, fun hne => ⟨rfl, ?_⟩, ?_⟩
  · rw [Option.some.injEq, BitVec.and_comm]
  · rwa [BitVec.and_comm]
  · rintro rfl
    exact congrArg some BitVec.and_allOnes

/-! ### The fault of a conflicted write -/

/-- The lifecycle check of an access raises other faults only (spec R203). -/
theorem lifeRunning_ne_conflictUnmapped {l : Life} {f : FaultCode} (h : lifeRunning l = some f) :
    f ≠ .conflictUnmapped := by
  cases l <;> cases h <;> decide

/-- No next state that `o` answers holds a record of the fault `f`. -/
def NeverRecords (f : FaultCode) (o : Out) : Prop := ∀ t r, o = .next t → t.fault = some r → r.code ≠ f

namespace NeverRecords

theorem next {f : FaultCode} {t : State} (ht : t.fault = none) : NeverRecords f (.next t) := by
  intro u r hu hr
  cases hu
  simp [ht] at hr

theorem raised {f g : FaultCode} (hg : g ≠ f) (w : CmdWord) (o : FaultOperand) (s : State) :
    NeverRecords f (raise g w o s) := by
  intro t r ht hr
  cases ht
  cases hr
  exact hg

theorem ofClass {f : FaultCode} {here : Bool} {k : Out} (hk : here = true → NeverRecords f k) :
    NeverRecords f (ofClass here k) := by
  intro t r h
  obtain ⟨hhere, h⟩ := ofClass_next h
  exact hk hhere t r h

theorem withCfg_lifeRunning {s : State} {c : Cfg} {k : Cfg → Out} (hc : s.cfg = some c)
    (hk : NeverRecords .conflictUnmapped (k c)) (w : CmdWord) :
    NeverRecords .conflictUnmapped (withCfg (lifeRunning s.life) w s k) := by
  cases hf : lifeRunning s.life with
  | none => rwa [withCfg_bound hc]
  | some f => exact raised (lifeRunning_ne_conflictUnmapped hf) w .nothing s

theorem latchWrite_in_rom {s : State} {a : Addr} (hs : s.fault = none) (ha : 0x8000#16 ≤ a) (c : Cfg) (w : CmdWord)
    (v : Byte) : NeverRecords .conflictUnmapped (latchWrite c w a v s) := by
  cases he : effective c a v s with
  | ok eff =>
    rw [latchWrite_effective he]
    exact next hs
  | error e =>
    obtain ⟨f, o⟩ := e
    obtain rfl := effective_error_in_rom ha he
    rw [latchWrite_error he]
    exact raised (by decide) w o s

theorem wramWrite {f : FaultCode} {s : State} (hs : s.fault = none) (a : Addr) (v : Byte) :
    NeverRecords f (wramWrite a v s) := by
  intro t r h hr
  obtain ⟨m, -, rfl⟩ := wramWrite_next h
  simp [hs] at hr

section
variable {s : State} {c : Cfg} (hs : s.fault = none) (hc : s.cfg = some c) (hwin : 0x8000#16 ≤ c.winLow)
include hs hc hwin

theorem exec_latchWrite (a : Addr) (v : Byte) : NeverRecords .conflictUnmapped (exec (.latchWrite a v) s) := by
  refine withCfg_lifeRunning hc (ofClass fun hk => ?_) _
  have ha := (classifyWrite_latch_iff.mp (beq_iff_eq.mp hk)).1
  exact latchWrite_in_rom hs (BitVec.le_trans hwin ha) c _ v

theorem exec_write (a : Addr) (v : Byte) : NeverRecords .conflictUnmapped (exec (.write a v) s) := by
  refine withCfg_lifeRunning hc ?_ _
  split
  · next hk => exact latchWrite_in_rom hs (BitVec.le_trans hwin (classifyWrite_latch_iff.mp hk).1) c _ v
  · exact wramWrite hs a v
  · exact next hs

end

end NeverRecords

/-- Settles O33: outside the ROM window a conflicted write has no effective value; and a latch window inside the ROM window
has every latch write in the ROM window. -/
theorem conflictedWriteOutsideRomFaults : Obligations.ConflictedWriteOutsideRomFaults := by
  intro s c v hc
  constructor
  · intro hl hconflict a hlow hhigh ha
    have hk := classifyWrite_latch_iff.mpr ⟨hlow, hhigh⟩
    have hrow : exec (.latchWrite a v) s =
        .next (faultedState .conflictUnmapped (Instr.latchWrite a v).word (.addr a) s) := by
      rw [exec_latchWrite_powered hl hc, ofClass_same hk, latchWrite_error (effective_outside_rom hconflict ha v s),
        raise_eq]
    exact ⟨(exec_write_of_class hl hc hk).trans hrow, hrow⟩
  · rintro hwin hs a t r (h | h)
    · exact NeverRecords.exec_write hs hc hwin a v t r h
    · exact NeverRecords.exec_latchWrite hs hc hwin a v t r h

/-! ### The read that no region serves -/

/-- Settles O38: the address has the class that no handler covers, which does not look at the latch window. -/
theorem unhandledReadAnswersNone : Obligations.UnhandledReadAnswersNone := by
  intro s c a hl hc ha hn
  have hk := classifyRead_unhandled_iff.mpr ⟨ha, hn⟩
  have hrow := exec_unhandledRead_here hl hc hk
  exact ⟨hrow, (exec_read_of_class hl hc hk).trans hrow⟩

end Sys2Proof.Machine
end

section
/-! PROOFS. What a Sync makes of a latch: a variant's row answers the decoded calls and the bank map they make (spec R161,
R172 to R175), a restore syncs as a live write does (spec R177), and every call names a window of its rule (spec R163 to
R169). -/

namespace Sys2Proof.Machine

/-! ### A variant's row -/

section
variable {s : State} {c : Cfg} {latch : Byte} (hc : s.cfg = some c) (hlatch : s.latch = some latch)
include hc hlatch

/-- A variant runs under the bound configuration and the latch (spec R161). -/
theorem runVariant_latched (v : Variant) (w : CmdWord) : runVariant v w s = .next (variantState v c latch s) := by
  simp [runVariant, withCfg_bound hc, syncWith_latched hlatch, variantState]

theorem exec_toInstr_latched (v : Variant) : exec v.toInstr s = .next (variantState v c latch s) := by
  cases v <;> exact runVariant_latched hc hlatch ..

/-- Variants that decode the latch to the same calls do the same. -/
theorem exec_toInstr_congr {v v' : Variant}
    (h : decodeCalls v latch c.submapper c.prgBanks16 = decodeCalls v' latch c.submapper c.prgBanks16) :
    exec v.toInstr s = exec v'.toInstr s := by
  rw [exec_toInstr_latched hc hlatch, exec_toInstr_latched hc hlatch, variantState, variantState, h]

end

/-- The slots and the mirroring of `variantState`, by `syncedPrg`, `syncedChr` and `syncedMirror`. -/
theorem variantState_eq (v : Variant) (c : Cfg) (latch : Byte) (s : State) :
    variantState v c latch s = { s with
      bank := ⟨syncedPrg v latch c.prgBanks16, syncedChr v latch, (syncedMirror v latch c.submapper).getD s.bank.mirror⟩
      response := some (.calls (decodeCalls v latch c.submapper c.prgBanks16)) } := by
  rw [variantState, applyCalls_decodeCalls]

/-- Settles O45: the row decodes with the configuration's submapper and ROM size, as its Sync does. -/
theorem variantRowsAreWhatSyncRuns : Obligations.VariantRowsAreWhatSyncRuns := fun _ c _ hc hlatch =>
  exec_toInstr_latched hc hlatch c.variant

/-! ### The slots of each variant -/

/-- The low nibble of a byte, which the mask 0x0F keeps (spec R172). -/
theorem toNat_lowNibble (latch : Byte) : (latch &&& 0x0F#8).toNat = latch.toNat % 16 := by
  rw [BitVec.toNat_and]
  exact Nat.and_two_pow_sub_one_eq_mod _ 4

/-- Settles O46: the row leaves the slots of spec R172, whose low bank is the low nibble. -/
theorem prg16LowSwitchMapsTheLowNibble : Obligations.Prg16LowSwitchMapsTheLowNibble := by
  intro s c latch hc hlatch
  rw [← toNat_lowNibble]
  exact (exec_toInstr_latched hc hlatch .prg16LowSwitch).trans (by rw [variantState_eq]; rfl)

/-- Settles O47: the row leaves the slots of spec R173. -/
theorem chr8SwitchMapsTheWholeLatch : Obligations.Chr8SwitchMapsTheWholeLatch := by
  intro s c latch hc hlatch
  exact (exec_toInstr_latched hc hlatch .chr8Switch).trans (by rw [variantState_eq]; rfl)

/-- Settles O48: the PRG slots and calls go by the mode, and the mirroring and its call by whether there is a mirroring
bit. -/
theorem combinedMapsItsBitGroups : Obligations.CombinedMapsItsBitGroups := by
  intro s c latch p hc hlatch
  refine ⟨_, _, rfl, rfl, (exec_toInstr_latched hc hlatch (.combined p)).trans ?_⟩
  rw [variantState_eq]
  obtain ⟨⟨mode, _, _, _, _⟩, bit, lo, hi⟩ := p
  cases mode with
  | p16FixedLast => cases bit <;> rfl
  | p32 => cases bit <;> rfl

/-! ### Variants that decode alike -/

/-- Under any other submapper, SUBMAPPER_POLARITY is COMBINED with the mirroring bit (spec R175). -/
theorem decodeCalls_polarity_other {p : PolarityParams} {sub : Nat} (h : sub ≠ p.invertSubmapper) (latch : Byte)
    (n : Nat) : decodeCalls (.submapperPolarity p) latch sub n =
      decodeCalls (.combined ⟨p.layout, some p.mirBit, p.mirLo, p.mirHi⟩) latch sub n := by
  simp [decodeCalls, decodePolarityCalls, decodeCombinedCalls, h]

/-- Choosing by the inverted bit is choosing between exchanged mirrorings (spec R175). -/
theorem mirrorCall_not (bit : Bool) (lo hi : Mirroring) : mirrorCall (!bit) lo hi = mirrorCall bit hi lo := by
  cases bit <;> rfl

/-- Under `invertSubmapper`, SUBMAPPER_POLARITY is COMBINED with the two mirrorings exchanged (spec R175). -/
theorem decodeCalls_polarity_inverted {p : PolarityParams} {sub : Nat} (h : sub = p.invertSubmapper) (latch : Byte)
    (n : Nat) : decodeCalls (.submapperPolarity p) latch sub n =
      decodeCalls (.combined ⟨p.layout, some p.mirBit, p.mirHi, p.mirLo⟩) latch sub n := by
  simp [decodeCalls, decodePolarityCalls, decodeCombinedCalls, h, mirrorCall_not]

/-- Settles O49: the row decodes to the calls of COMBINED, with the mirrorings exchanged under `invertSubmapper`. -/
theorem submapperPolarityFlipsTheMirroringBit : Obligations.SubmapperPolarityFlipsTheMirroringBit :=
  fun _ _ _ p hc hlatch =>
    ⟨⟨_, exec_toInstr_latched hc hlatch (.submapperPolarity p)⟩,
      fun h => exec_toInstr_congr hc hlatch (decodeCalls_polarity_other h ..),
      fun h => exec_toInstr_congr hc hlatch (decodeCalls_polarity_inverted h ..)⟩

/-- An unshifted bit group is the masked latch (spec R171). -/
theorem bitGroup_unshifted (latch mask : Byte) : bitGroup latch 0 mask = (latch &&& mask).toNat := by simp [bitGroup]

/-- Settles O50: the mask 0x00 gives bank 0, and the mask 0xFF the whole latch. -/
theorem simpleVariantsAreCombinedOnes : Obligations.SimpleVariantsAreCombinedOnes := by
  intro latch sub n lo hi
  have hall : latch &&& 0xFF#8 = latch := BitVec.and_allOnes
  constructor
  · simp [decodeCalls, decodePrg16LowSwitch, decodeCombinedCalls, layoutCalls, bitGroup_unshifted]
  · simp [decodeCalls, decodeChr8Switch, decodeCombinedCalls, layoutCalls, bitGroup_unshifted, hall]

/-! ### A restore and a live write -/

/-- The WRAM image of a buffer, or no image where there is no WRAM, has the shape STATE_LOAD requires (spec R109). -/
theorem snapshotShapeOk_toImage (c : Cfg) (m : Memory) :
    snapshotShapeOk c (if c.hasWram then some (toImage m) else none) = true := by
  cases hw : c.hasWram <;> simp [snapshotShapeOk, hw]

/-- Settles O43: both set the latch to the effective value and sync from the same bank map. -/
theorem restoreMatchesTheLiveWrite : Obligations.RestoreMatchesTheLiveWrite := by
  intro s c a v e m hl hc hlow hhigh _ he
  exact ⟨_, _, _, (latchWriteStoresTheEffectiveValue s c a v e hl hc hlow hhigh he).2,
    exec_loadState_rightShape hl hc (snapshotShapeOk_toImage c m) e, rfl, rfl, rfl, rfl⟩

/-! ### The calls that a Sync issues -/

theorem layoutCalls_wellFormed (l : BankLayout) (latch : Byte) (n : Nat) :
    (layoutCalls l latch n).all BankCall.wellFormed = true := by
  unfold layoutCalls
  cases l.prgMode <;> rfl

theorem decodeCombinedCalls_wellFormed (p : CombinedParams) (latch : Byte) (n : Nat) :
    (decodeCombinedCalls p latch n).all BankCall.wellFormed = true := by
  rw [decodeCombinedCalls, List.all_append, layoutCalls_wellFormed]
  cases p.mirBit <;> rfl

theorem decodeCalls_wellFormed (v : Variant) (latch : Byte) (sub n : Nat) :
    (decodeCalls v latch sub n).all BankCall.wellFormed = true := by
  cases v with
  | prg16LowSwitch | chr8Switch => rfl
  | combined p => exact decodeCombinedCalls_wellFormed p latch n
  | submapperPolarity p =>
    rw [decodeCalls, decodePolarityCalls, List.all_append, decodeCombinedCalls_wellFormed]
    rfl

/-- Settles O55: the calls of every variant have named windows. -/
theorem syncIssuesCallsAtNamedWindows : Obligations.SyncIssuesCallsAtNamedWindows := fun _ _ x hx =>
  List.all_eq_true.mp (decodeCalls_wellFormed ..) x hx

/-! ### The bank map after a Sync -/

/-- The three variants that issue no SET_MIRROR set no mirroring (spec R169). -/
theorem syncedMirror_none {v : Variant}
    (h : v = .prg16LowSwitch ∨ v = .chr8Switch ∨ ∃ p, v = .combined p ∧ p.mirBit = none) (latch : Byte) (sub : Nat) :
    syncedMirror v latch sub = none := by
  rcases h with rfl | rfl | ⟨p, rfl, hp⟩
  · rfl
  · rfl
  · simp [syncedMirror, hp]

/-- Settles O54: the mirroring is INIT's, or what a Sync that sets none made of INIT's. -/
theorem mirroringStaysAtTheHeaderWithoutAMirrorCall : Obligations.MirroringStaysAtTheHeaderWithoutAMirrorCall := by
  intro s c hinv hc hv
  have hlife : s.life ≠ .absent := fun hl => by simp [hinv.session.cfg_absent hl] at hc
  obtain ⟨-, ⟨-, hbank⟩ | ⟨latch, -, hbank⟩⟩ := hinv.session.unsynced_or_synced hlife hc
  · rw [hbank]
    rfl
  · rw [hbank, syncedBank, applyCalls_syncCalls, syncedMirror_none hv]
    rfl

/-- Both variants with a bank layout fill the PRG slots by it (spec R174, R175). -/
theorem syncedPrg_layout {v : Variant} {l : BankLayout}
    (h : (∃ p, v = .combined p ∧ p.layout = l) ∨ ∃ p, v = .submapperPolarity p ∧ p.layout = l) (latch : Byte) (n : Nat) :
    syncedPrg v latch n = layoutPrg l latch n := by
  rcases h with ⟨p, rfl, rfl⟩ | ⟨p, rfl, rfl⟩ <;> rfl

/-- Settles O57: slot 3 of the PRG slots that the variant's Sync fills. -/
theorem resetVectorSlotFollowsTheVariant : Obligations.ResetVectorSlotFollowsTheVariant := by
  refine ⟨by decide, by decide, fun c latch m => ?_⟩
  rw [applyCalls_syncCalls]
  refine ⟨fun hv => ?_, fun hv => ?_, fun l hl => ⟨fun hmode => ?_, fun hmode => ?_⟩⟩
  · rw [hv]
    rfl
  · rw [hv]
    rfl
  · rw [syncedPrg_layout hl, layoutPrg, hmode]
    rfl
  · rw [syncedPrg_layout hl, layoutPrg, hmode]
    rfl

end Sys2Proof.Machine
end

section
/-! PROOFS. The bank calls: each writes the slots of its window and nothing else, and is refused at a window that its rule
does not name (spec R163 to R169; assumption logs 10 and 11). -/

namespace Sys2Proof.Machine

theorem bankCall_named {ok : Bool} (h : ok = true) (f : BankMap → BankMap) (s : State) :
    bankCall ok f s = .next { s with bank := f s.bank } := by simp [bankCall, h]

theorem bankCall_unnamed {ok : Bool} (h : ok = false) (f : BankMap → BankMap) (s : State) :
    bankCall ok f s = .refused .windowNotNamed := by simp [bankCall, h]

theorem exec_setPrg8_named {w : Addr} (h : prg8Window w = true) (b : Nat) (s : State) :
    exec (.setPrg8 w b) s = .next { s with bank := applySetPrg8 w b s.bank } := bankCall_named h _ s

theorem exec_setPrg16_named {w : Addr} (h : prg16Window w = true) (b : Nat) (s : State) :
    exec (.setPrg16 w b) s = .next { s with bank := applySetPrg16 w b s.bank } := bankCall_named h _ s

theorem exec_setChr1_named {w : Addr} (h : chr1Window w = true) (b : Nat) (s : State) :
    exec (.setChr1 w b) s = .next { s with bank := applySetChr1 w b s.bank } := bankCall_named h _ s

theorem exec_setChr4_named {w : Addr} (h : chr4Window w = true) (b : Nat) (s : State) :
    exec (.setChr4 w b) s = .next { s with bank := applySetChr4 w b s.bank } := bankCall_named h _ s

/-- Settles O51: at each named window the slot is a closed term; at any other the window check fails. -/
theorem prgBankCallsWriteTheirSlots : Obligations.PrgBankCallsWriteTheirSlots := fun s b =>
  ⟨exec_setPrg8_named (w := 0x8000#16) (by decide) b s, exec_setPrg8_named (w := 0xA000#16) (by decide) b s,
    exec_setPrg8_named (w := 0xC000#16) (by decide) b s, exec_setPrg8_named (w := 0xE000#16) (by decide) b s,
    exec_setPrg16_named (w := 0x8000#16) (by decide) b s, exec_setPrg16_named (w := 0xC000#16) (by decide) b s,
    bankCall_named rfl (applySetPrg32 b) s,
    fun w h0 h1 h2 h3 => bankCall_unnamed (by simp [prg8Window, h0, h1, h2, h3]) (applySetPrg8 w b) s,
    fun w h0 h1 => bankCall_unnamed (by simp [prg16Window, h0, h1]) (applySetPrg16 w b) s⟩

/-- The named 1 KiB windows are `0x400 * j` for `j` in 0..7 (spec R166). -/
theorem chr1Window_iff {w : Addr} : chr1Window w = true ↔ ∃ j, j < 8 ∧ w = BitVec.ofNat 16 (0x400 * j) := by
  simp only [chr1Window, Bool.and_eq_true, beq_iff_eq, decide_eq_true_eq]
  constructor
  · rintro ⟨hmod, hle⟩
    exact ⟨w.toNat / 0x400, by omega, by bv_omega⟩
  · rintro ⟨j, hj, rfl⟩
    rw [BitVec.toNat_ofNat]
    omega

theorem chrSlot_ofNat {j : Nat} (hj : j < 8) : chrSlot (BitVec.ofNat 16 (0x400 * j)) = j := by
  rw [chrSlot, BitVec.toNat_ushiftRight, BitVec.toNat_ofNat, Nat.shiftRight_eq_div_pow]
  omega

/-- Settles O52: SET_CHR1's slot is `j`, and the laws of `chrSet` say what it holds; the other windows' slots are closed
terms, or the window check fails. -/
theorem chrBankCallsWriteTheirSlots : Obligations.ChrBankCallsWriteTheirSlots := by
  intro s b
  refine ⟨fun j hj => ?_, exec_setChr4_named (w := 0x0000#16) (by decide) b s,
    exec_setChr4_named (w := 0x1000#16) (by decide) b s, bankCall_named rfl (applySetChr8 b) s, fun w hw => ?_,
    fun w h0 h1 => bankCall_unnamed (by simp [chr4Window, h0, h1]) (applySetChr4 w b) s⟩
  · refine ⟨chrSet s.bank.chr j b, ?_, chrGet_chrSet_same hj _ b, fun k hk => chrGet_chrSet_other hk _ b⟩
    rw [exec_setChr1_named (chr1Window_iff.mpr ⟨j, hj, rfl⟩), applySetChr1, chrSlot_ofNat hj]
  · refine bankCall_unnamed (Bool.eq_false_iff.mpr fun h => ?_) (applySetChr1 w b) s
    obtain ⟨j, hj, hwj⟩ := chr1Window_iff.mp h
    exact hw j hj hwj

/-- Settles O53: SET_MIRROR has no window. -/
theorem setMirrorWritesTheMirroring : Obligations.SetMirrorWritesTheMirroring := fun s m =>
  bankCall_named rfl (applySetMirror m) s

end Sys2Proof.Machine
end

section
/-! PROOFS. The faults of the lifecycle check: a command that is illegal in a lifecycle state records the table's fault
under its own word, before anything of its own rule (spec R203). -/

namespace Sys2Proof.Machine

/-- The table of spec R203, a row for each of the nine commands. -/
def lifeCheck : Instr → Life → Option FaultCode
  | .init _ => lifeInit
  | .powerOn => lifePowerOn
  | .write _ _ | .read _ | .saveState | .loadState _ _ => lifeRunning
  | .close => lifeClose
  | .batteryLoad _ => lifeBatteryLoad
  | .batterySave => lifeBatterySave
  | _ => fun _ => none

theorem checked_fault {fault : Option FaultCode} {f : FaultCode} (h : fault = some f) (w : CmdWord) (s : State)
    (k : Out) : checked fault w s k = .next (faultedState f w .nothing s) := by
  rw [h, checked_some]

theorem withCfg_fault {fault : Option FaultCode} {f : FaultCode} (h : fault = some f) (w : CmdWord) (s : State)
    (k : Cfg → Out) : withCfg fault w s k = .next (faultedState f w .nothing s) := by
  rw [h, withCfg_some_fault]

/-- A command makes its lifecycle check first, and raises the fault that the table names there. -/
theorem exec_lifeCheck_fault {i : Instr} {s : State} {l : Life} {f : FaultCode} (hl : s.life = l)
    (h : lifeCheck i l = some f) : exec i s = .next (faultedState f i.word .nothing s) := by
  subst hl
  cases i with
  | init _ | close => exact checked_fault h ..
  | powerOn | write _ _ | read _ | saveState | loadState _ _ | batteryLoad _ | batterySave => exact withCfg_fault h ..
  | _ => cases h

/-- Settles O12: each clause reads its cells off the table. -/
theorem lifecycleCheckFaults : Obligations.LifecycleCheckFaults := by
  intro s r a v img
  refine ⟨?initRunning, fun hl => exec_lifeCheck_fault hl rfl, ?absent, ?unpowered, ?powered, ?closed⟩
  case initRunning => rintro (hl | hl) <;> exact exec_lifeCheck_fault hl rfl
  case absent | unpowered | powered | closed =>
    intro hl
    and_intros <;> exact exec_lifeCheck_fault hl rfl

end Sys2Proof.Machine
end
